-- ==== Sys2Proof/Word.lean ====
section
/-! DEFINITION. The widths of the machine's values (spec/00_scope.md R7, R9): every value is unsigned and of a
fixed width, so each is a bit vector of that width. -/

namespace Sys2Proof

/-- A general value: a RAM cell, an ALU register, an input slot, an operand (`XLEN` = 16, R7). -/
abbrev Word := BitVec 16

/-- A data memory address (`RAM_AW` = 5, R7). -/
abbrev RamAddr := BitVec 5

/-- A program address (`PC_AW` = 6, R7). -/
abbrev ProgIndex := BitVec 6

/-- An input slot index (`IN_AW` = 3, R7). -/
abbrev SlotIndex := BitVec 3

/-- An ALU selector, 0 to 3 (`SEL_W` = 2, R7). -/
abbrev Sel := BitVec 2

/-- An opcode number (`OPC_W` = 5, R7). -/
abbrev OpcodeId := BitVec 5

/-- An assembled instruction word (`IWORD_W` = 23, R7, R98). -/
abbrev InstrWord := BitVec 23

end Sys2Proof
end

