-- ==== Sys2Proof/Config.lean ====
section
/-! DEFINITION. What the spec leaves open as a named parameter (spec/00_scope.md R8,
spec/93_implementation_defined.md section 5), and the one free value of the machine. The two modes are fixed for
a run; State holds them as plain data, so that a statement about every state is one about every mode. -/

namespace Sys2Proof

/-- What a branch operand of 64 or more does (R134, spec/92_eei_decisions.md D7). -/
inductive BranchTargetMode where
  /-- The target is the low six bits of the operand: the spec's default. -/
  | wrap64
  /-- The operand is kept whole, and a target of 64 or more halts at the next fetch. -/
  | overrun
deriving DecidableEq, Repr

/-- What the opcode IDs 29, 30 and 31 do (R102, R243, spec/92_eei_decisions.md D5). -/
inductive ReservedOpcodeMode where
  /-- They are illegal, and a program that holds one is refused: the spec's default. -/
  | refuse
  /-- They execute exactly as the no-op of R242. -/
  | nop
deriving DecidableEq, Repr

/-- The open parameters that change what a step does (R8). -/
structure Params where
  /-- `BRANCH_TARGET_MODE` (D7). -/
  branchTargetMode : BranchTargetMode
  /-- `RESERVED_OPCODE_MODE` (D5). -/
  reservedOpcodeMode : ReservedOpcodeMode
deriving DecidableEq, Repr

/-- `OPCODE_ID` (R8, R101, D2): a numbering of the rows of spec/opcode_table.json, in the table's order. The first 29
entries are the IDs of the 29 mnemonics; the last three are the IDs that no mnemonic has. An argument of the encoder,
the decoder and the load of words; no step depends on it. notes/assumptions/9.md. -/
abbrev OpcodeIds := Vector OpcodeId 32

/-- The default of `OPCODE_ID` (R101): `.` is 0 and the 28 operations are 1 to 28 in the table's order, so each row has
its own number. DESIGN CHOICE: notes/assumptions/9.md. -/
def Config.defaultOpcodeIds : OpcodeIds :=
  #v[0, 1, 2, 3, 4, 5, 6, 7, 8, 9, 10, 11, 12, 13, 14, 15, 16, 17, 18, 19, 20, 21, 22, 23, 24, 25, 26, 27, 28, 29, 30, 31]

/-- The defaults the spec gives the two modes (R8). -/
def Config.defaultParams : Params :=
  { branchTargetMode := .wrap64, reservedOpcodeMode := .refuse }

/-- `RAM_RESET` (R8, R22, D11): what RAM cell `a` holds after reset. All 0 is the spec's default and not a fact
of the source. DESIGN CHOICE, unsafe: notes/assumptions/1.md. -/
def Config.ramReset (_a : Nat) : Word := 0

/-- `ALU_RESET` (R8, R24, D13): the value of every A, B and ACC after reset.
DESIGN CHOICE, unsafe: notes/assumptions/2.md. -/
def Config.aluReset : Word := 0

/-- `INPUT_PRESET` (R8, R31, D15): the value of every input slot after reset. The source has a preset vector and
does not print it. DESIGN CHOICE, unsafe: notes/assumptions/3.md. -/
def Config.inputPreset : Word := 0

/-- FREE VALUE (R132, R221, D16): the `n`-th random draw of a run, where the state lists none. It has no body, so
nothing can be proved of it. Safe: notes/assumptions/6.md. -/
opaque Config.freeDraw : Nat → Word

end Sys2Proof
end

