-- ==== Sys2Proof/Syntax.lean ====
section
/-! DEFINITION. The instruction record of spec/30_encoding.md (Level R, R90): an opcode, an operand that may be
absent and an ALU selector that may be absent. Every record has both fields, whether its opcode uses them or not
(R104), so each constructor has both. One constructor for each row of spec/opcode_table.json, in the table's
order. -/

namespace Sys2Proof

/-- An instruction record (R90 to R93, R96). `v` is the operand (`none` for the placeholder `.`, R91) and `k` the
ALU selector (`none` for `.`, R92). -/
inductive Instr where
  /-- `.`: no-op placeholder (R242). -/
  | nop (v : Option Word) (k : Option Sel)
  /-- `BRA`: branch always (R180). -/
  | bra (v : Option Word) (k : Option Sel)
  /-- `BRM`: branch if more (R181). -/
  | brm (v : Option Word) (k : Option Sel)
  /-- `BRE`: branch if equal (R182). -/
  | bre (v : Option Word) (k : Option Sel)
  /-- `BRL`: branch if less (R183). -/
  | brl (v : Option Word) (k : Option Sel)
  /-- `BRI`: branch if input pending (R184). -/
  | bri (v : Option Word) (k : Option Sel)
  /-- `RAV`: RAM address from value (R190). -/
  | rav (v : Option Word) (k : Option Sel)
  /-- `RAA`: RAM address from accumulator (R191). -/
  | raa (v : Option Word) (k : Option Sel)
  /-- `STV`: store value (R192). -/
  | stv (v : Option Word) (k : Option Sel)
  /-- `STA`: store accumulator (R193). -/
  | sta (v : Option Word) (k : Option Sel)
  /-- `LVA`: load value into A (R200). -/
  | lva (v : Option Word) (k : Option Sel)
  /-- `LVB`: load value into B (R201). -/
  | lvb (v : Option Word) (k : Option Sel)
  /-- `LRA`: load RAM into A (R202). -/
  | lra (v : Option Word) (k : Option Sel)
  /-- `LRB`: load RAM into B (R203). -/
  | lrb (v : Option Word) (k : Option Sel)
  /-- `LAA`: load accumulator into A (R204). -/
  | laa (v : Option Word) (k : Option Sel)
  /-- `LAB`: load accumulator into B (R205). -/
  | lab (v : Option Word) (k : Option Sel)
  /-- `ADD`: add (R210). -/
  | add (v : Option Word) (k : Option Sel)
  /-- `SUB`: subtract (R211). -/
  | sub (v : Option Word) (k : Option Sel)
  /-- `AND`: bitwise and (R212). -/
  | and (v : Option Word) (k : Option Sel)
  /-- `OR`: bitwise or (R213). -/
  | or (v : Option Word) (k : Option Sel)
  /-- `XOR`: bitwise exclusive or (R214). -/
  | xor (v : Option Word) (k : Option Sel)
  /-- `RNR`: masked random store (R220). -/
  | rnr (v : Option Word) (k : Option Sel)
  /-- `RIA`: input address (R230). -/
  | ria (v : Option Word) (k : Option Sel)
  /-- `RIV`: input value (R231). -/
  | riv (v : Option Word) (k : Option Sel)
  /-- `SIA`: input to A (R232). -/
  | sia (v : Option Word) (k : Option Sel)
  /-- `SIB`: input to B (R233). -/
  | sib (v : Option Word) (k : Option Sel)
  /-- `SIR`: input to RAM (R234). -/
  | sir (v : Option Word) (k : Option Sel)
  /-- `CSM`: clear screen memory (R240). -/
  | csm (v : Option Word) (k : Option Sel)
  /-- `HLT`: halt (R241). -/
  | hlt (v : Option Word) (k : Option Sel)
  /-- Opcode ID 29, which names no instruction (R243). -/
  | reserved29 (v : Option Word) (k : Option Sel)
  /-- Opcode ID 30, which names no instruction (R243). -/
  | reserved30 (v : Option Word) (k : Option Sel)
  /-- Opcode ID 31, which names no instruction (R243). -/
  | reserved31 (v : Option Word) (k : Option Sel)
deriving DecidableEq, Repr

/-- The two fields of a record that are not its opcode. -/
def Instr.fields : Instr → Option Word × Option Sel
  | .nop v k | .bra v k | .brm v k | .bre v k
  | .brl v k | .bri v k | .rav v k | .raa v k
  | .stv v k | .sta v k | .lva v k | .lvb v k
  | .lra v k | .lrb v k | .laa v k | .lab v k
  | .add v k | .sub v k | .and v k | .or v k
  | .xor v k | .rnr v k | .ria v k | .riv v k
  | .sia v k | .sib v k | .sir v k | .csm v k
  | .hlt v k | .reserved29 v k | .reserved30 v k | .reserved31 v k => (v, k)

/-- The operand field `I.operand` (R91). -/
def Instr.operand (i : Instr) : Option Word := i.fields.1

/-- The selector field `I.aluSelect` (R92). -/
def Instr.aluSelect (i : Instr) : Option Sel := i.fields.2

end Sys2Proof
end

