-- ==== Sys2Proof/WellFormed.lean ====
section
/-! DEFINITION. Well-formedness of a record and of a program: the presence checks that the external loader does
not make and that a model adds (spec/70_reset_and_hazards.md R283, spec/60_exceptions.md R253), the length bound
(R21), the reserved opcode IDs (R243) and the numbering of the opcodes (R101). -/

namespace Sys2Proof

/-- The opcodes that use their operand: those whose operand kind in R94 is not `UNUSED` (R253). -/
def Instr.usesOperand : Instr → Bool
  | .bra _ _ | .brm _ _ | .bre _ _ | .brl _ _ | .bri _ _ | .rav _ _
  | .stv _ _ | .lva _ _ | .lvb _ _ | .rnr _ _ | .ria _ _ | .riv _ _ => true
  | .nop _ _ | .raa _ _ | .sta _ _ | .lra _ _ | .lrb _ _ | .laa _ _
  | .lab _ _ | .add _ _ | .sub _ _ | .and _ _ | .or _ _ | .xor _ _
  | .sia _ _ | .sib _ _ | .sir _ _ | .csm _ _ | .hlt _ _ | .reserved29 _ _
  | .reserved30 _ _ | .reserved31 _ _ => false

/-- The 18 opcodes that use the ALU selector (R95). -/
def Instr.usesSel : Instr → Bool
  | .brm _ _ | .bre _ _ | .brl _ _ | .raa _ _ | .sta _ _ | .lva _ _
  | .lvb _ _ | .lra _ _ | .lrb _ _ | .laa _ _ | .lab _ _ | .add _ _
  | .sub _ _ | .and _ _ | .or _ _ | .xor _ _ | .sia _ _ | .sib _ _ => true
  | .nop _ _ | .bra _ _ | .bri _ _ | .rav _ _ | .stv _ _ | .rnr _ _
  | .ria _ _ | .riv _ _ | .sir _ _ | .csm _ _ | .hlt _ _ | .reserved29 _ _
  | .reserved30 _ _ | .reserved31 _ _ => false

/-- The opcode IDs that name no instruction (R102). -/
def Instr.isReserved : Instr → Bool
  | .reserved29 _ _ | .reserved30 _ _ | .reserved31 _ _ => true
  | .nop _ _ | .bra _ _ | .brm _ _ | .bre _ _ | .brl _ _ | .bri _ _
  | .rav _ _ | .raa _ _ | .stv _ _ | .sta _ _ | .lva _ _ | .lvb _ _
  | .lra _ _ | .lrb _ _ | .laa _ _ | .lab _ _ | .add _ _ | .sub _ _
  | .and _ _ | .or _ _ | .xor _ _ | .rnr _ _ | .ria _ _ | .riv _ _
  | .sia _ _ | .sib _ _ | .sir _ _ | .csm _ _ | .hlt _ _ => false

/-- A record that carries every field its opcode uses (R253, R283). A branch operand of 64 or more is well formed
here: both modes of R134 are modelled. -/
def Instr.wf (i : Instr) : Bool :=
  (!i.usesSel || i.aluSelect.isSome) && (!i.usesOperand || i.operand.isSome)

/-- A record that may stand in a program store under the given mode (R102, R243). -/
def Instr.admitted (m : ReservedOpcodeMode) (i : Instr) : Bool :=
  match m with
  | .refuse => !i.isReserved
  | .nop => true

/-- A numbering that gives no ID twice: `OPCODE_ID` is one-to-one (R8, R101). -/
def validOpcodeIds (ids : OpcodeIds) : Bool := decide ids.toList.Nodup

/-- A program the core may be given (R283): at most 64 records, each well formed and admitted. -/
def validProgram (p : Params) (prog : List Instr) : Bool :=
  decide (prog.length ≤ 64) && prog.all (fun i => i.wf && i.admitted p.reservedOpcodeMode)

end Sys2Proof
end

