-- ==== Sys2Proof/Decode.lean ====
section
/-! DEFINITION. Level W (spec/30_encoding.md R98 to R102): the 23-bit instruction word, its decoder and its
encoder. The opcode numbers are the open parameter `OPCODE_ID` (R8, R101, D2), an argument of the functions whose names
end in `In`; `encode`, `decodeWord` and `decodeTableWord` take its default, the numbers of spec/opcode_table.json:
notes/assumptions/9.md. -/

namespace Sys2Proof

/-- The record of a row of the opcode table (R96), counted from 0, with given fields. Total: the 29 mnemonics and the
three reserved IDs are 32 rows. -/
def instrOfRow (n : OpcodeId) (v : Option Word) (k : Option Sel) : Instr :=
  match n.toNat with
  | 0 => .nop v k
  | 1 => .bra v k
  | 2 => .brm v k
  | 3 => .bre v k
  | 4 => .brl v k
  | 5 => .bri v k
  | 6 => .rav v k
  | 7 => .raa v k
  | 8 => .stv v k
  | 9 => .sta v k
  | 10 => .lva v k
  | 11 => .lvb v k
  | 12 => .lra v k
  | 13 => .lrb v k
  | 14 => .laa v k
  | 15 => .lab v k
  | 16 => .add v k
  | 17 => .sub v k
  | 18 => .and v k
  | 19 => .or v k
  | 20 => .xor v k
  | 21 => .rnr v k
  | 22 => .ria v k
  | 23 => .riv v k
  | 24 => .sia v k
  | 25 => .sib v k
  | 26 => .sir v k
  | 27 => .csm v k
  | 28 => .hlt v k
  | 29 => .reserved29 v k
  | 30 => .reserved30 v k
  | _ => .reserved31 v k

/-- The row of the opcode table that a record belongs to (R96), counted from 0. -/
def rowOf : Instr → OpcodeId
  | .nop _ _ => 0
  | .bra _ _ => 1
  | .brm _ _ => 2
  | .bre _ _ => 3
  | .brl _ _ => 4
  | .bri _ _ => 5
  | .rav _ _ => 6
  | .raa _ _ => 7
  | .stv _ _ => 8
  | .sta _ _ => 9
  | .lva _ _ => 10
  | .lvb _ _ => 11
  | .lra _ _ => 12
  | .lrb _ _ => 13
  | .laa _ _ => 14
  | .lab _ _ => 15
  | .add _ _ => 16
  | .sub _ _ => 17
  | .and _ _ => 18
  | .or _ _ => 19
  | .xor _ _ => 20
  | .rnr _ _ => 21
  | .ria _ _ => 22
  | .riv _ _ => 23
  | .sia _ _ => 24
  | .sib _ _ => 25
  | .sir _ _ => 26
  | .csm _ _ => 27
  | .hlt _ _ => 28
  | .reserved29 _ _ => 29
  | .reserved30 _ _ => 30
  | .reserved31 _ _ => 31

/-- The opcode number of a record, `OPCODE_ID(I.opcode)` (R99, R101). -/
def opcodeIdIn (ids : OpcodeIds) (i : Instr) : OpcodeId := ids[(rowOf i).toNat]'(rowOf i).isLt

/-- The opcode number of a record in the default numbering. -/
def opcodeId (i : Instr) : OpcodeId := opcodeIdIn Config.defaultOpcodeIds i

/-- The row that has the number `id` (R100). An ID that the numbering gives to no row names no instruction, so it falls
to the last reserved row; a valid numbering has none. -/
def rowOfId (ids : OpcodeIds) (id : OpcodeId) : OpcodeId := BitVec.ofNat 5 (min 31 (ids.toList.idxOf id))

/-- The opcode field `W[22:18]` (R98). -/
def opcField (w : InstrWord) : OpcodeId := w.extractLsb' 18 5

/-- The operand field `W[17:2]` (R98). -/
def immField (w : InstrWord) : Word := w.extractLsb' 2 16

/-- The selector field `W[1:0]` (R98). -/
def selField (w : InstrWord) : Sel := w.extractLsb' 0 2

/-- Decode, word to record (R100): total on the 2^23 words, and both fields are always present. -/
def decodeWordIn (ids : OpcodeIds) (w : InstrWord) : Instr :=
  instrOfRow (rowOfId ids (opcField w)) (some (immField w)) (some (selField w))

/-- Decode in the default numbering. -/
def decodeWord (w : InstrWord) : Instr := decodeWordIn Config.defaultOpcodeIds w

/-- Assembly, record to word (R99): an absent field is encoded as zeros (D4). -/
def encodeIn (ids : OpcodeIds) (i : Instr) : InstrWord :=
  opcodeIdIn ids i ++ i.operand.getD 0 ++ i.aluSelect.getD 0

/-- Assembly in the default numbering. -/
def encode (i : Instr) : InstrWord := encodeIn Config.defaultOpcodeIds i

/-- What a record becomes when it is assembled and decoded again: an absent field comes back as 0 (R100). -/
def filled (i : Instr) : Instr :=
  instrOfRow (rowOf i) (some (i.operand.getD 0)) (some (i.aluSelect.getD 0))

/-- Why a number is not read as an instruction. -/
inductive DecodeError where
  /-- The number has a bit above bit 22, so it is no 23-bit word (R98). -/
  | wordTooWide
  /-- The opcode field holds an ID without a mnemonic (29, 30 and 31 in the default numbering) where
  `RESERVED_OPCODE_MODE` is `refuse` (R102, R243). -/
  | reservedOpcode (id : OpcodeId)
deriving DecidableEq, Repr

/-- Decoding of any number as an instruction word: a number wider than 23 bits is rejected by name. The reserved
IDs decode to their own constructors here; `decodeProgramWord` refuses them. -/
def decode (w : Nat) : Except DecodeError Instr :=
  if w < 2 ^ 23 then .ok (decodeWord (BitVec.ofNat 23 w)) else .error .wordTooWide

/-- The decoder that guards the program store (R102, R112, R243): in the mode `refuse` a reserved ID is reported
as illegal. -/
def decodeProgramWord (ids : OpcodeIds) (m : ReservedOpcodeMode) (w : InstrWord) : Except DecodeError Instr :=
  if (decodeWordIn ids w).admitted m then .ok (decodeWordIn ids w) else .error (.reservedOpcode (opcField w))

/-- The instruction the decoder reads from `nbits` bits numbered as spec/opcode_table.json numbers them, in the
table's own opcode numbers, which are the default. A word
of the program store is one 23-bit record (R62, R98), so the number is the word; bits above `nbits` are 0. -/
def decodeTableWord (nbits w : Nat) : Option Instr :=
  match decode (w % 2 ^ nbits) with
  | .ok i => some i
  | .error _ => none

end Sys2Proof
end

