-- ==== Sys2Proof/Machine/State.lean ====
section
/-! DEFINITION. The machine's state (spec/10_state.md R20), the reasons a step can stop, and the state after reset
(R40). The program store and the host's inputs of a step are not state in the spec (R21, R39); the host's interface
gives a step nothing but a state, so they stand in State as plain data: notes/assumptions/5.md. -/

namespace Sys2Proof.Machine

/-- One unit of the ALU bank (R24). -/
structure Alu where
  /-- `alu[k].A` -/
  a : Word
  /-- `alu[k].B` -/
  b : Word
  /-- `alu[k].ACC` -/
  acc : Word
deriving DecidableEq, Repr

/-- Data memory (R22) as (word address, word) pairs: the addresses strictly rising and below 32, and no pair equal to
what an unlisted address reads as (`Memory.wf`). The spec's smallest unit is the 16-bit word and it has no bytes
(R62, R64): notes/assumptions/4.md. -/
abbrev Memory := List (Nat × Word)

/-- What `pc.address` and `pc.pendingJump` hold (R26, R29). -/
inductive ProgAddr where
  /-- The 6-bit register: one of the 64 instruction slots. -/
  | slot (a : ProgIndex)
  /-- A branch operand of 64 or more kept whole, which exists only where `BRANCH_TARGET_MODE` is `overrun` (R134). -/
  | beyond (t : Word)
deriving DecidableEq, Repr

/-- The run status (R38). -/
inductive Status where
  /-- Code 0: the next step may be taken. -/
  | running
  /-- Code 1: an `HLT` was executed. -/
  | haltedHlt
  /-- Code 2: the program address was at or beyond the program length before fetch. -/
  | haltedOverrun
  /-- Code 3: a caller-contract violation. A step reports it as the outcome `fault` and gives no state (R254). -/
  | fault
  /-- Code 4: the host stopped the run between two steps. -/
  | stopped
deriving DecidableEq, Repr

/-- What the host does at one boundary between two steps (R155 steps 8 and 9, R161). -/
structure Handoff where
  /-- The key event offered: a slot index, or nothing (R159). -/
  key : Option SlotIndex
  /-- The stop request (R160). -/
  stop : Bool
deriving DecidableEq, Repr

/-- The machine's state: the rows of the table of R20, then the program store and the parameters (R21, R8), then
the host's inputs (R39). -/
structure State where
  /-- `ram[0..31]` (R22) -/
  ram : Memory
  /-- `ramCursor` (R23) -/
  ramCursor : RamAddr
  /-- `alu[0..3]` (R24) -/
  alus : Vector Alu 4
  /-- `pc.address` (R26) -/
  pcAddress : ProgAddr
  /-- `pc.pendingJump` (R29) -/
  pendingJump : Option ProgAddr
  /-- `inp.slot[0..7]` (R31) -/
  inputSlots : Vector Word 8
  /-- `inp.cursor` (R32) -/
  inputCursor : SlotIndex
  /-- `inp.pending` (R33) -/
  pendingKey : Option SlotIndex
  /-- `status` (R38) -/
  status : Status
  /-- `PROG`, whose length is `L` (R21). Fixed for a run. -/
  prog : List Instr
  /-- The open modes of R8. Fixed for a run. -/
  params : Params
  /-- The model's own field: what the host does at the coming step boundaries, the next one first (R39). Where it
  is empty the host offers nothing and does not stop the run. -/
  handoffs : List Handoff
  /-- The model's own field: the coming random draws, the next one first (R39, R132). Where it is empty the draw is
  the free value `Config.freeDraw`. -/
  draws : List Word
  /-- The model's own field: how many draws were taken, which makes each free draw a fresh one (R132). -/
  drawCount : Nat
deriving DecidableEq, Repr

/-- Why the machine stops with a fault: the contract violations of R253. Safe: the spec calls what follows
undefined, and a step gives no state (R254). -/
inductive Fault where
  /-- `ContractViolation(NoAluSelect)`: raised by `withSel`, for an opcode that uses the selector and whose record
  has none. Safe. -/
  | noAluSelect
  /-- `ContractViolation(NoOperand)`: raised by `withOperand`, for an opcode that uses its operand and whose record
  has none. Safe. -/
  | noOperand
deriving DecidableEq, Repr

/-- Why an instruction is refused. -/
inductive Refusal where
  /-- Raised by `exec` for an instruction that has no meaning yet. No arm does. Safe. -/
  | notModelled (mnemonic : String)
  /-- Raised by the reserved opcode IDs where `RESERVED_OPCODE_MODE` is `refuse` (R243). The number is the one of the row
  of spec/opcode_table.json, whatever numbering the words were decoded in (notes/assumptions/10.md). Safe. -/
  | reservedOpcode (id : OpcodeId)
deriving DecidableEq, Repr

/-- The outcome of an instruction or a step. -/
abbrev Result := Host.Outcome State Fault Refusal

/-- The state after reset (R40, R280), with the parameters at their defaults (R8), an empty program store and no host
input listed: notes/assumptions/1.md, 2.md, 3.md, 5.md, 11.md. -/
def State.reset : State :=
  { ram := []
    ramCursor := 0
    alus := Vector.replicate 4 { a := Config.aluReset, b := Config.aluReset, acc := Config.aluReset }
    pcAddress := .slot 0
    pendingJump := none
    inputSlots := Vector.replicate 8 Config.inputPreset
    inputCursor := 0
    pendingKey := none
    status := .running
    prog := []
    params := Config.defaultParams
    handoffs := []
    draws := []
    drawCount := 0 }

end Sys2Proof.Machine
end

