-- ==== Sys2Proof/Machine/Ops.lean ====
section
/-! DEFINITION. The primitive operations of spec/40_cycle_and_primitives.md (R130 to R151), which every instruction
rule calls by name, and the parts of the step that are not an instruction (R135, R136, R155 steps 1, 2, 8, 9). -/

namespace Sys2Proof.Machine

/-! ### Bit-width arithmetic (R130, R131) -/

/-- `trunc_N(v)`: the residue of an integer modulo 2^N, never negative (R130). -/
def trunc (n : Nat) (v : Int) : BitVec n := BitVec.ofInt n v

/-- `bitwiseAnd(a, b, 16)` (R131). -/
def bitwiseAnd (a b : Word) : Word := a &&& b

/-- `bitwiseOr(a, b, 16)` (R131). -/
def bitwiseOr (a b : Word) : Word := a ||| b

/-- `bitwiseXor(a, b, 16)` (R131). -/
def bitwiseXor (a b : Word) : Word := a ^^^ b

/-! ### Data memory (R22, R64) -/

/-- What RAM cell `a` reads as while nothing has written it: its reset content (R69 (b)). -/
def Memory.unlisted (a : Nat) : Word := Config.ramReset a

/-- `MemRead(a, 16)` (R11): no side effect. -/
def Memory.read : Memory → Nat → Word
  | [], a => Memory.unlisted a
  | (b, w) :: rest, a => if a = b then w else Memory.read rest a

/-- A pair in front of a memory, left out where it says what an unlisted address reads as. -/
def Memory.cons (a : Nat) (v : Word) (rest : Memory) : Memory :=
  if v = Memory.unlisted a then rest else (a, v) :: rest

/-- `MemWrite(a, 16, v)` (R11), which keeps the canonical form. -/
def Memory.write : Memory → Nat → Word → Memory
  | [], a, v => Memory.cons a v []
  | (b, w) :: rest, a, v =>
    if a < b then Memory.cons a v ((b, w) :: rest)
    else if a = b then Memory.cons a v rest
    else (b, w) :: Memory.write rest a v

/-- The canonical form from address `lo` on: addresses strictly rising and below 32 (R22), and no pair that says
what an unlisted address reads as. -/
def Memory.wfFrom : Nat → Memory → Bool
  | _, [] => true
  | lo, (a, v) :: rest =>
    decide (lo ≤ a) && decide (a < 32) && decide (v ≠ Memory.unlisted a) && Memory.wfFrom (a + 1) rest

/-- The canonical form of data memory. -/
def Memory.wf (m : Memory) : Bool := Memory.wfFrom 0 m

/-- Zeroes the addresses `0` to `n - 1`, one write each in rising order. -/
def Memory.zeroBelow : Nat → Memory → Memory
  | 0, m => m
  | n + 1, m => (Memory.zeroBelow n m).write n 0

/-- `setAddress(a)` of the data memory (R143). -/
def setRamCursor (a : RamAddr) (s : State) : State := { s with ramCursor := a }

/-- `readAtCurrent()` of the data memory (R145). -/
def readAtCurrent (s : State) : Word := s.ram.read s.ramCursor.toNat

/-- `writeAtCurrent(v)` of the data memory (R144): the cursor does not move. -/
def writeAtCurrent (v : Word) (s : State) : State := { s with ram := s.ram.write s.ramCursor.toNat v }

/-- `resetScreenRegion()` (R146): zeroes the cells 0 to 15 and no other. -/
def resetScreenRegion (s : State) : State := { s with ram := Memory.zeroBelow 16 s.ram }

/-! ### The ALU bank (R137 to R142) -/

/-- `alu[k]` (R142). -/
def State.alu (s : State) (k : Sel) : Alu := s.alus[k.toNat]'k.isLt

/-- Replaces `alu[k]` and no other unit. -/
def setAlu (k : Sel) (u : Alu) (s : State) : State := { s with alus := s.alus.set k.toNat u k.isLt }

/-- `setRegisterA(v)` (R141). -/
def setRegisterA (k : Sel) (v : Word) (s : State) : State := setAlu k { s.alu k with a := v } s

/-- `setRegisterB(v)` (R141). -/
def setRegisterB (k : Sel) (v : Word) (s : State) : State := setAlu k { s.alu k with b := v } s

/-- Writes the accumulator of `alu[k]`. -/
def setAccumulator (k : Sel) (v : Word) (s : State) : State := setAlu k { s.alu k with acc := v } s

/-- What `add()` puts into the accumulator (R137): the exact sum, then the cut to 16 bits. -/
def aluAdd (u : Alu) : Word := trunc 16 ((u.a.toNat : Int) + u.b.toNat)

/-- What `subtract()` puts into the accumulator (R138): A minus B exactly, then the cut to 16 bits. -/
def aluSubtract (u : Alu) : Word := trunc 16 ((u.a.toNat : Int) - u.b.toNat)

/-- What `bitAnd()` puts into the accumulator (R139). -/
def aluBitAnd (u : Alu) : Word := bitwiseAnd u.a u.b

/-- What `bitOr()` puts into the accumulator (R139). -/
def aluBitOr (u : Alu) : Word := bitwiseOr u.a u.b

/-- What `bitXor()` puts into the accumulator (R139). -/
def aluBitXor (u : Alu) : Word := bitwiseXor u.a u.b

/-! ### The input mapper (R147 to R150) -/

/-- `inp.slot[j]` (R31). -/
def State.inputSlot (s : State) (j : SlotIndex) : Word := s.inputSlots[j.toNat]'j.isLt

/-- `setAddress(a)` of the input mapper (R147). -/
def setInputCursor (j : SlotIndex) (s : State) : State := { s with inputCursor := j }

/-- `writeAtCurrent(v)` of the input mapper (R148). -/
def writeSlotAtCurrent (v : Word) (s : State) : State :=
  { s with inputSlots := s.inputSlots.set s.inputCursor.toNat v s.inputCursor.isLt }

/-- What `consumePending()` returns (R150): the pending slot's value as it is now, or 0 where nothing is pending. -/
def pendingValue (s : State) : Word :=
  match s.pendingKey with
  | some j => s.inputSlot j
  | none => 0

/-- What `consumePending()` does to the state (R150): nothing is pending afterwards. -/
def clearPending (s : State) : State := { s with pendingKey := none }

/-- `setPendingFromKey` for a key's slot index (R149, R159): dropped where a key is pending. -/
def setPendingFromKey (j : SlotIndex) (s : State) : State :=
  { s with pendingKey := match s.pendingKey with
                         | none => some j
                         | some p => some p }

/-! ### The random draw (R132) -/

/-- `randomWord(16)`: the draw that the next `RNR` takes. -/
def nextDraw (s : State) : Word :=
  match s.draws with
  | r :: _ => r
  | [] => Config.freeDraw s.drawCount

/-- What taking a draw does to the inputs that remain. -/
def dropDraw (s : State) : State := { s with draws := s.draws.tail, drawCount := s.drawCount + 1 }

/-! ### The program counter (R134 to R136) -/

/-- A program address as a number. -/
def ProgAddr.toNat : ProgAddr → Nat
  | .slot a => a.toNat
  | .beyond t => t.toNat

/-- `(address + 1) mod 64` (R135). -/
def ProgAddr.next (a : ProgAddr) : ProgAddr := .slot (trunc 6 ((a.toNat : Int) + 1))

/-- The address that a branch with operand `v` goes to (R134): `trunc_6(v)` in the mode `wrap64`, the operand itself
in the mode `overrun`. -/
def branchTarget (m : BranchTargetMode) (v : Word) : ProgAddr :=
  match m with
  | .wrap64 => .slot (trunc 6 v.toNat)
  | .overrun => if v.toNat < 64 then .slot (trunc 6 v.toNat) else .beyond v

/-- `jump(v)` (R134): does not change `pc.address`. -/
def jump (v : Word) (s : State) : State :=
  { s with pendingJump := some (branchTarget s.params.branchTargetMode v) }

/-- `advance()` (R135). -/
def advance (s : State) : State :=
  { s with
    pcAddress := match s.pendingJump with
                 | some t => t
                 | none => s.pcAddress.next
    pendingJump := none }

/-- The record at `pc.address`, or nothing where `pc.address >= L` (R136, R155 steps 1 and 2). -/
def fetch (s : State) : Option Instr := s.prog[s.pcAddress.toNat]?

/-! ### How an instruction and a run end -/

/-- An instruction that completes: its step's `advance()` (R155 step 6). -/
def complete (s : State) : Result := .next (advance s)

/-- `halt(HLT)` and `halt(Overrun)` (R11, R251, R252): the status and nothing else; there is no `advance()`. -/
def halt (st : Status) (s : State) : State := { s with status := st }

/-- `raise ContractViolation(reason)` (R11, R254): the machine's only exception. The status becomes `Fault` and the
spec leaves every other piece of state unspecified, so the outcome is a fault and gives no state. -/
def raiseContractViolation (r : Fault) : Result := .fault r

/-! ### The boundary between two steps (R155 steps 8 and 9) -/

/-- The key event of a boundary, if there is one (R159). -/
def offerKey (key : Option SlotIndex) (s : State) : State :=
  match key with
  | some j => setPendingFromKey j s
  | none => s

/-- The stop request of a boundary (R160). -/
def offerStop (stop : Bool) (s : State) : State := if stop then halt .stopped s else s

/-- The handoff between this instruction and the next: the key first, then the stop (R260). -/
def handoff (s : State) : State :=
  match s.handoffs with
  | [] => s
  | h :: hs => offerStop h.stop (offerKey h.key { s with handoffs := hs })

/-- What follows an instruction in its step (R155): a handoff where the machine still runs. On a step that halts the
host's inputs are not taken (R159 (d), R260). -/
def afterInstr (r : Result) : Result :=
  match r with
  | .next t =>
    match t.status with
    | .running => .next (handoff t)
    | .haltedHlt | .haltedOverrun | .fault | .stopped => .next t
  | .fault f => .fault f
  | .refused f => .refused f

end Sys2Proof.Machine
end

