-- ==== Sys2Proof/Machine/Flags.lean ====
section
/-! DEFINITION. The machine has no flags register and no condition codes (spec/10_state.md R34): a conditional
branch evaluates one of these predicates at the moment it executes. -/

namespace Sys2Proof.Machine

/-- `isEqual()`: A = B (R140). -/
def isEqual (u : Alu) : Bool := decide (u.a.toNat = u.b.toNat)

/-- `isMore()`: A > B, unsigned (R140). That "more" says how A stands to B is the spec's reading (D12). -/
def isMore (u : Alu) : Bool := decide (u.b.toNat < u.a.toNat)

/-- `isLess()`: A < B, unsigned (R140, D12). -/
def isLess (u : Alu) : Bool := decide (u.a.toNat < u.b.toNat)

/-- `hasPending()` (R151): does not consume. -/
def hasPending (s : State) : Bool := s.pendingKey.isSome

end Sys2Proof.Machine
end

