-- ==== Sys2Proof/Machine/Operands.lean ====
section
/-! DEFINITION. Resolving a record's fields (spec/40_cycle_and_primitives.md R152) and the operand kinds of
spec/30_encoding.md R94. -/

namespace Sys2Proof.Machine

/-- Resolution of the ALU selector (R152): its absence is the violation `NoAluSelect`, raised before any state
changes. -/
def withSel (k : Option Sel) (f : Sel → Result) : Result :=
  match k with
  | some k => f k
  | none => raiseContractViolation .noAluSelect

/-- Resolution of the operand (R152): its absence is the violation `NoOperand`, raised before any state changes. -/
def withOperand (v : Option Word) (f : Word → Result) : Result :=
  match v with
  | some v => f v
  | none => raiseContractViolation .noOperand

/-- Resolution of both fields, the selector first (R152, R260). -/
def withBoth (v : Option Word) (k : Option Sel) (f : Word → Sel → Result) : Result :=
  withSel k (fun k => withOperand v (fun v => f v k))

/-- Operand kind `RADDR` (R94): the low five bits. -/
def ramAddrOf (v : Word) : RamAddr := trunc 5 v.toNat

/-- Operand kind `IADDR` (R94): the low three bits. -/
def slotIndexOf (v : Word) : SlotIndex := trunc 3 v.toNat

/-- Operand kind `LIT16` (R94): all 16 bits. -/
def literalOf (v : Word) : Word := v

/-- Operand kind `MASK16` (R94): all 16 bits. -/
def maskOf (v : Word) : Word := v

end Sys2Proof.Machine
end

