-- ==== Sys2Proof/Machine/Branch.lean ====
section
/-! DEFINITION. The branch instructions (spec/41_branch.md R180 to R185). -/

namespace Sys2Proof.Machine

/-- A branch that is taken where `taken` holds: `jump(v)`, then the step's `advance()` (R185). -/
def branchIf (taken : Bool) (v : Word) (s : State) : Result :=
  complete (if taken then jump v s else s)

/-- `BRA` (R180). -/
def execBra (v : Option Word) (_k : Option Sel) (s : State) : Result :=
  withOperand v (fun v => branchIf true v s)

/-- `BRM` (R181). -/
def execBrm (v : Option Word) (k : Option Sel) (s : State) : Result :=
  withBoth v k (fun v k => branchIf (isMore (s.alu k)) v s)

/-- `BRE` (R182). -/
def execBre (v : Option Word) (k : Option Sel) (s : State) : Result :=
  withBoth v k (fun v k => branchIf (isEqual (s.alu k)) v s)

/-- `BRL` (R183). -/
def execBrl (v : Option Word) (k : Option Sel) (s : State) : Result :=
  withBoth v k (fun v k => branchIf (isLess (s.alu k)) v s)

/-- `BRI` (R184). -/
def execBri (v : Option Word) (_k : Option Sel) (s : State) : Result :=
  withOperand v (fun v => branchIf (hasPending s) v s)

end Sys2Proof.Machine
end

