-- ==== Sys2Proof/Machine/Compute.lean ====
section
/-! DEFINITION. The compute instructions (spec/44_compute.md R210 to R216). -/

namespace Sys2Proof.Machine

/-- The shape of all five (R215): an operation on `alu[k]`'s A and B, whose result goes to its accumulator. -/
def compute (f : Alu → Word) (k : Option Sel) (s : State) : Result :=
  withSel k (fun k => complete (setAccumulator k (f (s.alu k)) s))

/-- `ADD` (R210). -/
def execAdd (_v : Option Word) (k : Option Sel) (s : State) : Result := compute aluAdd k s

/-- `SUB` (R211). -/
def execSub (_v : Option Word) (k : Option Sel) (s : State) : Result := compute aluSubtract k s

/-- `AND` (R212). -/
def execAnd (_v : Option Word) (k : Option Sel) (s : State) : Result := compute aluBitAnd k s

/-- `OR` (R213). -/
def execOr (_v : Option Word) (k : Option Sel) (s : State) : Result := compute aluBitOr k s

/-- `XOR` (R214). -/
def execXor (_v : Option Word) (k : Option Sel) (s : State) : Result := compute aluBitXor k s

end Sys2Proof.Machine
end

