-- ==== Sys2Proof/Machine/Control.lean ====
section
/-! DEFINITION. Display, control and the reserved opcode IDs (spec/47_display_and_control.md R240 to R244). -/

namespace Sys2Proof.Machine

/-- `CSM` (R240). -/
def execCsm (_v : Option Word) (_k : Option Sel) (s : State) : Result := complete (resetScreenRegion s)

/-- `HLT` (R241): no `advance()`. -/
def execHlt (_v : Option Word) (_k : Option Sel) (s : State) : Result := .next (halt .haltedHlt s)

/-- `.` (R242). -/
def execNop (_v : Option Word) (_k : Option Sel) (s : State) : Result := complete s

/-- A reserved opcode ID (R243): refused in the mode `refuse`, exactly the no-op of R242 in the mode `nop`. -/
def execReserved (id : OpcodeId) (s : State) : Result :=
  match s.params.reservedOpcodeMode with
  | .refuse => .refused (.reservedOpcode id)
  | .nop => complete s

/-- The first ID without a mnemonic: 29 in the default numbering (R243). -/
def execReserved29 (_v : Option Word) (_k : Option Sel) (s : State) : Result := execReserved 29 s

/-- The second ID without a mnemonic: 30 in the default numbering (R243). -/
def execReserved30 (_v : Option Word) (_k : Option Sel) (s : State) : Result := execReserved 30 s

/-- The third ID without a mnemonic: 31 in the default numbering (R243). -/
def execReserved31 (_v : Option Word) (_k : Option Sel) (s : State) : Result := execReserved 31 s

end Sys2Proof.Machine
end

