-- ==== Sys2Proof/Machine/Input.lean ====
section
/-! DEFINITION. The input instructions (spec/46_input.md R230 to R235). -/

namespace Sys2Proof.Machine

/-- `RIA` (R230). -/
def execRia (v : Option Word) (_k : Option Sel) (s : State) : Result :=
  withOperand v (fun v => complete (setInputCursor (slotIndexOf v) s))

/-- `RIV` (R231). -/
def execRiv (v : Option Word) (_k : Option Sel) (s : State) : Result :=
  withOperand v (fun v => complete (writeSlotAtCurrent (literalOf v) s))

/-- `SIA` (R232): the selector is resolved before the key is consumed. -/
def execSia (_v : Option Word) (k : Option Sel) (s : State) : Result :=
  withSel k (fun k => complete (setRegisterA k (pendingValue s) (clearPending s)))

/-- `SIB` (R233). -/
def execSib (_v : Option Word) (k : Option Sel) (s : State) : Result :=
  withSel k (fun k => complete (setRegisterB k (pendingValue s) (clearPending s)))

/-- `SIR` (R234). -/
def execSir (_v : Option Word) (_k : Option Sel) (s : State) : Result :=
  complete (writeAtCurrent (pendingValue s) (clearPending s))

end Sys2Proof.Machine
end

