-- ==== Sys2Proof/Machine/MemoryWrite.lean ====
section
/-! DEFINITION. Memory addressing and memory write (spec/42_memory_addressing_and_write.md R190 to R194). -/

namespace Sys2Proof.Machine

/-- `RAV` (R190). -/
def execRav (v : Option Word) (_k : Option Sel) (s : State) : Result :=
  withOperand v (fun v => complete (setRamCursor (ramAddrOf v) s))

/-- `RAA` (R191). -/
def execRaa (_v : Option Word) (k : Option Sel) (s : State) : Result :=
  withSel k (fun k => complete (setRamCursor (trunc 5 (s.alu k).acc.toNat) s))

/-- `STV` (R192). -/
def execStv (v : Option Word) (_k : Option Sel) (s : State) : Result :=
  withOperand v (fun v => complete (writeAtCurrent (literalOf v) s))

/-- `STA` (R193). -/
def execSta (_v : Option Word) (k : Option Sel) (s : State) : Result :=
  withSel k (fun k => complete (writeAtCurrent (trunc 16 (s.alu k).acc.toNat) s))

end Sys2Proof.Machine
end

