-- ==== Sys2Proof/Machine/Random.lean ====
section
/-! DEFINITION. The randomness instruction (spec/45_random.md R220, R221). -/

namespace Sys2Proof.Machine

/-- `RNR` (R220): a fresh draw, masked, to the current RAM cell. The operand is resolved before any draw. -/
def execRnr (v : Option Word) (_k : Option Sel) (s : State) : Result :=
  withOperand v (fun v => complete (writeAtCurrent (bitwiseAnd (nextDraw s) (maskOf v)) (dropDraw s)))

end Sys2Proof.Machine
end

