-- ==== Sys2Proof/Machine/RegisterLoad.lean ====
section
/-! DEFINITION. The register loads (spec/43_register_load.md R200 to R206). -/

namespace Sys2Proof.Machine

/-- `LVA` (R200). -/
def execLva (v : Option Word) (k : Option Sel) (s : State) : Result :=
  withBoth v k (fun v k => complete (setRegisterA k (literalOf v) s))

/-- `LVB` (R201). -/
def execLvb (v : Option Word) (k : Option Sel) (s : State) : Result :=
  withBoth v k (fun v k => complete (setRegisterB k (literalOf v) s))

/-- `LRA` (R202). -/
def execLra (_v : Option Word) (k : Option Sel) (s : State) : Result :=
  withSel k (fun k => complete (setRegisterA k (readAtCurrent s) s))

/-- `LRB` (R203). -/
def execLrb (_v : Option Word) (k : Option Sel) (s : State) : Result :=
  withSel k (fun k => complete (setRegisterB k (readAtCurrent s) s))

/-- `LAA` (R204): the same unit's own accumulator. -/
def execLaa (_v : Option Word) (k : Option Sel) (s : State) : Result :=
  withSel k (fun k => complete (setRegisterA k (s.alu k).acc s))

/-- `LAB` (R205). -/
def execLab (_v : Option Word) (k : Option Sel) (s : State) : Result :=
  withSel k (fun k => complete (setRegisterB k (s.alu k).acc s))

end Sys2Proof.Machine
end

