-- ==== Sys2Proof/Machine/Dispatch.lean ====
section
/-! DEFINITION. Dispatch (spec/40_cycle_and_primitives.md R153): one arm per opcode. -/

namespace Sys2Proof.Machine

def exec (i : Instr) (s : State) : Host.Outcome State Fault Refusal :=
  match i with
  | .nop v k => Sys2Proof.Machine.execNop v k s
  | .bra v k => Sys2Proof.Machine.execBra v k s
  | .brm v k => Sys2Proof.Machine.execBrm v k s
  | .bre v k => Sys2Proof.Machine.execBre v k s
  | .brl v k => Sys2Proof.Machine.execBrl v k s
  | .bri v k => Sys2Proof.Machine.execBri v k s
  | .rav v k => Sys2Proof.Machine.execRav v k s
  | .raa v k => Sys2Proof.Machine.execRaa v k s
  | .stv v k => Sys2Proof.Machine.execStv v k s
  | .sta v k => Sys2Proof.Machine.execSta v k s
  | .lva v k => Sys2Proof.Machine.execLva v k s
  | .lvb v k => Sys2Proof.Machine.execLvb v k s
  | .lra v k => Sys2Proof.Machine.execLra v k s
  | .lrb v k => Sys2Proof.Machine.execLrb v k s
  | .laa v k => Sys2Proof.Machine.execLaa v k s
  | .lab v k => Sys2Proof.Machine.execLab v k s
  | .add v k => Sys2Proof.Machine.execAdd v k s
  | .sub v k => Sys2Proof.Machine.execSub v k s
  | .and v k => Sys2Proof.Machine.execAnd v k s
  | .or v k => Sys2Proof.Machine.execOr v k s
  | .xor v k => Sys2Proof.Machine.execXor v k s
  | .rnr v k => Sys2Proof.Machine.execRnr v k s
  | .ria v k => Sys2Proof.Machine.execRia v k s
  | .riv v k => Sys2Proof.Machine.execRiv v k s
  | .sia v k => Sys2Proof.Machine.execSia v k s
  | .sib v k => Sys2Proof.Machine.execSib v k s
  | .sir v k => Sys2Proof.Machine.execSir v k s
  | .csm v k => Sys2Proof.Machine.execCsm v k s
  | .hlt v k => Sys2Proof.Machine.execHlt v k s
  | .reserved29 v k => Sys2Proof.Machine.execReserved29 v k s
  | .reserved30 v k => Sys2Proof.Machine.execReserved30 v k s
  | .reserved31 v k => Sys2Proof.Machine.execReserved31 v k s

end Sys2Proof.Machine
end

