-- ==== Sys2Proof/Machine/Step.lean ====
section
/-! DEFINITION. The step (spec/40_cycle_and_primitives.md R155) and the placing of a word where the next step
fetches. -/

namespace Sys2Proof.Machine

/-- One step request. Where the status is `Running`: the length test (R136), the fetch, the instruction, then the
handoff to the host (R155). In every other status the request has no effect (R38, R162):
notes/assumptions/8.md. -/
def step (s : State) : Host.Outcome State Fault Refusal :=
  match s.status with
  | .running =>
    match fetch s with
    | none => .next (halt .haltedOverrun s)
    | some i => afterInstr (exec i s)
  | .haltedHlt | .haltedOverrun | .fault | .stopped => .next s

/-- Puts a record at program address `a`, with no-ops at the addresses below it that hold nothing. -/
def placeAt (prog : List Instr) (a : Nat) (i : Instr) : List Instr :=
  prog.take a ++ List.replicate (a - prog.length) (.nop none none) ++ i :: prog.drop (a + 1)

/-- `s` with the instruction that the word `w` decodes to at the address its next step fetches from, and running:
it stands for the host's load (R161, R283). A word that does not decode leaves `s` as it is.
notes/assumptions/11.md. -/
def State.withFetchWord (s : State) (nbits w : Nat) : State :=
  match decodeTableWord nbits w with
  | none => s
  | some i =>
    let a : ProgIndex := trunc 6 s.pcAddress.toNat
    { s with pcAddress := .slot a, status := .running, prog := placeAt s.prog a.toNat i }

end Sys2Proof.Machine
end

