-- ==== Sys2Proof/Machine/HostPort.lean ====
section
/-! DEFINITION. What the host does to the core outside a step (spec/40_cycle_and_primitives.md R158 to R162,
spec/70_reset_and_hazards.md R280 to R283): load, reset, the key event by its symbol, and what it reads. -/

namespace Sys2Proof.Machine

/-! ### Reset (R40, R280, R282) -/

/-- The open reset values (R8): `RAM_RESET`, `ALU_RESET` and `INPUT_PRESET`. -/
structure ResetValues where
  ram : Vector Word 32
  alus : Vector Alu 4
  inputSlots : Vector Word 8
deriving DecidableEq, Repr

/-- The values that `State.reset` takes. -/
def ResetValues.default : ResetValues :=
  { ram := Vector.ofFn (fun i => Config.ramReset i.val)
    alus := State.reset.alus
    inputSlots := State.reset.inputSlots }

/-- Writes a list of words to the addresses from `a` on. -/
def Memory.writeFrom : List Word → Nat → Memory → Memory
  | [], _, m => m
  | v :: vs, a, m => Memory.writeFrom vs (a + 1) (m.write a v)

/-- `rst` (R162, R280): every piece of state to its reset value, with the open ones as given. The program store, the
parameters and the host's inputs are not the machine's to reset (R282). -/
def resetWith (rv : ResetValues) (s : State) : State :=
  { State.reset with
    ram := Memory.writeFrom rv.ram.toList 0 []
    alus := rv.alus
    inputSlots := rv.inputSlots
    prog := s.prog
    params := s.params
    handoffs := s.handoffs
    draws := s.draws
    drawCount := s.drawCount }

/-! ### Load (R161, R256, R283) -/

/-- Why a program is not placed. -/
inductive LoadError where
  /-- More than 64 records (R108). -/
  | tooLong
  /-- The word at program address `a` is no instruction (R243). -/
  | badWord (a : Nat) (e : DecodeError)
deriving DecidableEq, Repr

/-- Places a list of records in the program store, from address 0 (R283 (3)). As the source's loader, it does not
check that needed fields are present (R108). -/
def loadRecords (prog : List Instr) (s : State) : Except LoadError State :=
  if prog.length ≤ 64 then .ok { s with prog := prog } else .error .tooLong

/-- Decodes a list of words, the first of which has address `a`. A word the mode does not admit is reported by its
address (R243). -/
def decodeProgram (ids : OpcodeIds) (m : ReservedOpcodeMode) : Nat → List InstrWord → Except LoadError (List Instr)
  | _, [] => .ok []
  | a, w :: ws =>
    match decodeProgramWord ids m w with
    | .error e => .error (.badWord a e)
    | .ok i =>
      match decodeProgram ids m (a + 1) ws with
      | .error e => .error e
      | .ok is => .ok (i :: is)

/-- Places a list of instruction words, in a numbering of the opcodes (R101), in the program store. DESIGN CHOICE: the
words are decoded before they are counted, so that the bad word with the lowest address is reported, and `tooLong` only
where no word is bad (notes/assumptions/29.md). -/
def loadWords (ids : OpcodeIds) (ws : List InstrWord) (s : State) : Except LoadError State :=
  match decodeProgram ids s.params.reservedOpcodeMode 0 ws with
  | .error e => .error e
  | .ok prog => loadRecords prog s

/-! ### Key symbols (R149) -/

/-- `setPendingFromKey(key)` with the open table `KEY_MAP` (D17): a key that the table does not know is no event. -/
def setPendingFromSymbol {σ : Type} (keyMap : σ → Option SlotIndex) (key : σ) (s : State) : State :=
  offerKey (keyMap key) s

/-! ### What the host reads (R158, R162) -/

/-- The snapshot of a step boundary (R158). -/
structure Snapshot where
  /-- `ram_out`: `ram[0..31]`. -/
  ram : Vector Word 32
  /-- `pc_out`: `pc.address`. -/
  pc : ProgAddr
deriving DecidableEq, Repr

/-- The snapshot of a state. -/
def snapshot (s : State) : Snapshot :=
  { ram := Vector.ofFn (fun i => s.ram.read i.val), pc := s.pcAddress }

/-- The "output" value, RAM cell 16 (R61). -/
def outputCell (s : State) : Word := s.ram.read 16

/-- The pixel of the bitmap in a row and a column (R61): row `r` is cell `r`, and column 0 is bit 15 (D19). -/
def pixel (s : State) (row col : Fin 16) : Bool := (s.ram.read row.val).getLsbD (15 - col.val)

/-- The port `status`: the code of R38. -/
def Status.code : Status → BitVec 3
  | .running => 0
  | .haltedHlt => 1
  | .haltedOverrun => 2
  | .fault => 3
  | .stopped => 4

/-- The status that the host sees after a step request (R250): a contract violation is the status `Fault`. A refusal
is the model's own stop and no status. -/
def reportedStatus (r : Result) : Option Status :=
  match r with
  | .next s => some s.status
  | .fault _ => some .fault
  | .refused _ => none

/-- The port `prog_len`: `L` (R162). -/
def progLen (s : State) : Nat := s.prog.length

/-- The port `rom_addr` (R162). -/
def romAddr (s : State) : ProgIndex := trunc 6 s.pcAddress.toNat

end Sys2Proof.Machine
end

