-- ==== Sys2Proof/Machine/Loader.lean ====
section
/-! DEFINITION. From program text to instruction records (spec/30_encoding.md R91 to R93, R97, R106 to R109). The
source puts the reading of text outside the core (R5); this is as much of it as the spec gives, so that the records
the core starts from are described. -/

namespace Sys2Proof.Machine

/-- Why a program text is rejected before any run (R108, R107). `n` counts lines from 0. -/
inductive TextError where
  /-- More than 64 lines. -/
  | tooManyLines
  /-- A line that has not exactly three tokens. -/
  | wrongTokenCount (n : Nat)
  /-- The first token is none of the 29 mnemonics. -/
  | unknownOpcode (n : Nat)
  /-- The second token is neither `.` nor an unsigned decimal literal (R107, D10). -/
  | badOperand (n : Nat)
  /-- The third token is none of `.`, `0`, `1`, `2`, `3`. -/
  | badSelector (n : Nat)
deriving DecidableEq, Repr

/-- Blanks between tokens. -/
def isBlank (c : Char) : Bool := c == ' ' || c == '\t'

/-- A line's tokens; `tok` is the token being read, its last character first. -/
def splitTokens : List Char → List Char → List (List Char)
  | tok, [] => if tok.isEmpty then [] else [tok.reverse]
  | tok, c :: cs =>
    if isBlank c then
      if tok.isEmpty then splitTokens [] cs else tok.reverse :: splitTokens [] cs
    else splitTokens (c :: tok) cs

/-- The opcode of a mnemonic, case-sensitive and exact (R93, R96). -/
def opcodeOfText : List Char → Option (Option Word → Option Sel → Instr)
  | ['.'] => some .nop
  | ['B', 'R', 'A'] => some .bra
  | ['B', 'R', 'M'] => some .brm
  | ['B', 'R', 'E'] => some .bre
  | ['B', 'R', 'L'] => some .brl
  | ['B', 'R', 'I'] => some .bri
  | ['R', 'A', 'V'] => some .rav
  | ['R', 'A', 'A'] => some .raa
  | ['S', 'T', 'V'] => some .stv
  | ['S', 'T', 'A'] => some .sta
  | ['L', 'V', 'A'] => some .lva
  | ['L', 'V', 'B'] => some .lvb
  | ['L', 'R', 'A'] => some .lra
  | ['L', 'R', 'B'] => some .lrb
  | ['L', 'A', 'A'] => some .laa
  | ['L', 'A', 'B'] => some .lab
  | ['A', 'D', 'D'] => some .add
  | ['S', 'U', 'B'] => some .sub
  | ['A', 'N', 'D'] => some .and
  | ['O', 'R'] => some .or
  | ['X', 'O', 'R'] => some .xor
  | ['R', 'N', 'R'] => some .rnr
  | ['R', 'I', 'A'] => some .ria
  | ['R', 'I', 'V'] => some .riv
  | ['S', 'I', 'A'] => some .sia
  | ['S', 'I', 'B'] => some .sib
  | ['S', 'I', 'R'] => some .sir
  | ['C', 'S', 'M'] => some .csm
  | ['H', 'L', 'T'] => some .hlt
  | _ => none

/-- A decimal digit's value. -/
def digitOfChar (c : Char) : Option Nat :=
  if '0' ≤ c ∧ c ≤ '9' then some (c.toNat - '0'.toNat) else none

/-- The number that decimal digits write, after the digits that gave `acc`. -/
def decimalFrom : Nat → List Char → Option Nat
  | acc, [] => some acc
  | acc, c :: cs =>
    match digitOfChar c with
    | some d => decimalFrom (10 * acc + d) cs
    | none => none

/-- The operand token (R91, R107): `.` gives no operand, an unsigned decimal literal its value cut to 16 bits once. -/
def operandOfText : List Char → Option (Option Word)
  | [] => none
  | ['.'] => some none
  | c :: cs => (decimalFrom 0 (c :: cs)).map (fun n => some (trunc 16 n))

/-- The ALU token (R92). -/
def selectorOfText : List Char → Option (Option Sel)
  | ['.'] => some none
  | ['0'] => some (some 0)
  | ['1'] => some (some 1)
  | ['2'] => some (some 2)
  | ['3'] => some (some 3)
  | _ => none

/-- The value of a bit pattern, most significant bit first, after the bits that gave `acc` (R97). -/
def patternFrom : Nat → List Bool → Nat
  | acc, [] => acc
  | acc, b :: bs => patternFrom (2 * acc + b.toNat) bs

/-- The operand that a stored bit pattern stands for (R97): both forms of a number give the same record. -/
def operandOfPattern (bits : List Bool) : Option Word := some (trunc 16 (patternFrom 0 bits))

/-- One line of program text, of number `n` (R106, R108). DESIGN CHOICE: where several tokens are at fault, the first
of opcode, operand and selector is reported (notes/assumptions/16.md). -/
def recordOfLine (n : Nat) (line : List Char) : Except TextError Instr :=
  match splitTokens [] line with
  | [op, v, k] =>
    match opcodeOfText op, operandOfText v, selectorOfText k with
    | none, _, _ => .error (.unknownOpcode n)
    | some _, none, _ => .error (.badOperand n)
    | some _, some _, none => .error (.badSelector n)
    | some mk, some v, some k => .ok (mk v k)
  | _ => .error (.wrongTokenCount n)

/-- The lines of a program text, the first of which has number `n`. DESIGN CHOICE: the first line at fault is reported
(notes/assumptions/16.md). -/
def recordsOfLines : Nat → List (List Char) → Except TextError (List Instr)
  | _, [] => .ok []
  | n, l :: ls =>
    match recordOfLine n l with
    | .error e => .error e
    | .ok i =>
      match recordsOfLines (n + 1) ls with
      | .error e => .error e
      | .ok is => .ok (i :: is)

/-- A program text: line `n` is the instruction at program address `n` (R106). DESIGN CHOICE: the lines are counted
before they are read, so that `tooManyLines` is reported where a line is malformed as well
(notes/assumptions/29.md). -/
def programOfText (ls : List (List Char)) : Except TextError (List Instr) :=
  if ls.length ≤ 64 then recordsOfLines 0 ls else .error .tooManyLines

end Sys2Proof.Machine
end

