-- ==== Sys2Proof/Safety.lean ====
section
/-! DEFINITION. The terms that claims use: the pieces of state, what it means that a piece is unchanged, what each
opcode may write (spec/40_cycle_and_primitives.md R154), and the invariant of a step boundary (spec/10_state.md
R29, R41). -/

namespace Sys2Proof.Machine

/-- Every piece of state, one by one. -/
inductive Loc where
  | ram (a : Nat)
  | ramCursor
  | aluA (k : Sel)
  | aluB (k : Sel)
  | aluAcc (k : Sel)
  | pcAddress
  | pendingJump
  | inputSlot (j : SlotIndex)
  | inputCursor
  | pendingKey
  | status
  | prog
  | params
  | handoffs
  | draws
  | drawCount
deriving DecidableEq, Repr

/-- The piece has in `t` the value that it has in `s`. RAM is read word by word, at every address. -/
def Loc.Same (s t : State) : Loc → Prop
  | .ram a => t.ram.read a = s.ram.read a
  | .ramCursor => t.ramCursor = s.ramCursor
  | .aluA k => (t.alu k).a = (s.alu k).a
  | .aluB k => (t.alu k).b = (s.alu k).b
  | .aluAcc k => (t.alu k).acc = (s.alu k).acc
  | .pcAddress => t.pcAddress = s.pcAddress
  | .pendingJump => t.pendingJump = s.pendingJump
  | .inputSlot j => t.inputSlot j = s.inputSlot j
  | .inputCursor => t.inputCursor = s.inputCursor
  | .pendingKey => t.pendingKey = s.pendingKey
  | .status => t.status = s.status
  | .prog => t.prog = s.prog
  | .params => t.params = s.params
  | .handoffs => t.handoffs = s.handoffs
  | .draws => t.draws = s.draws
  | .drawCount => t.drawCount = s.drawCount

/-- Every piece of state that is not in the list is the same in `t` as in `s`. -/
def UnchangedBut (ws : List Loc) (s t : State) : Prop := ∀ l, l ∉ ws → l.Same s t

/-- The cell that a store writes: the one at the cursor (R74, R76). -/
def cursorCell (s : State) : Loc := .ram s.ramCursor.toNat

/-- The piece that a selected unit's register is, and none where the record has no selector. -/
def selected (f : Sel → Loc) (k : Option Sel) : List Loc :=
  match k with
  | some k => [f k]
  | none => []

/-- What the arm of an opcode may write, from the table of R154. `RNR` also takes one of the host's draws (R132). -/
def armWrites (i : Instr) (s : State) : List Loc :=
  match i with
  | .nop _ _ | .bra _ _ | .brm _ _ | .bre _ _ | .brl _ _ | .bri _ _ => []
  | .reserved29 _ _ | .reserved30 _ _ | .reserved31 _ _ => []
  | .rav _ _ | .raa _ _ => [.ramCursor]
  | .stv _ _ | .sta _ _ => [cursorCell s]
  | .rnr _ _ => [cursorCell s, .draws, .drawCount]
  | .sir _ _ => [cursorCell s, .pendingKey]
  | .lva _ k | .lra _ k | .laa _ k => selected .aluA k
  | .lvb _ k | .lrb _ k | .lab _ k => selected .aluB k
  | .sia _ k => .pendingKey :: selected .aluA k
  | .sib _ k => .pendingKey :: selected .aluB k
  | .add _ k | .sub _ k | .and _ k | .or _ k | .xor _ k => selected .aluAcc k
  | .ria _ _ => [.inputCursor]
  | .riv _ _ => [.inputSlot s.inputCursor]
  | .csm _ _ => (List.range 16).map .ram
  | .hlt _ _ => [.status]

/-- Whether a record is an `HLT`, the one instruction that gets no `advance()` (R157). -/
def isHlt : Instr → Bool
  | .hlt _ _ => true
  | .nop _ _ | .bra _ _ | .brm _ _ | .bre _ _ | .brl _ _ | .bri _ _ | .rav _ _ | .raa _ _ | .stv _ _ | .sta _ _
  | .lva _ _ | .lvb _ _ | .lra _ _ | .lrb _ _ | .laa _ _ | .lab _ _ | .add _ _ | .sub _ _ | .and _ _ | .or _ _
  | .xor _ _ | .rnr _ _ | .ria _ _ | .riv _ _ | .sia _ _ | .sib _ _ | .sir _ _ | .csm _ _ | .reserved29 _ _
  | .reserved30 _ _ | .reserved31 _ _ => false

/-- Whether a record is one of the five branches, the only instructions that may set the pending jump (R154, R185). -/
def isBranch : Instr → Bool
  | .bra _ _ | .brm _ _ | .bre _ _ | .brl _ _ | .bri _ _ => true
  | .nop _ _ | .rav _ _ | .raa _ _ | .stv _ _ | .sta _ _ | .lva _ _ | .lvb _ _ | .lra _ _ | .lrb _ _ | .laa _ _
  | .lab _ _ | .add _ _ | .sub _ _ | .and _ _ | .or _ _ | .xor _ _ | .rnr _ _ | .ria _ _ | .riv _ _ | .sia _ _
  | .sib _ _ | .sir _ _ | .csm _ _ | .hlt _ _ | .reserved29 _ _ | .reserved30 _ _ | .reserved31 _ _ => false

/-- What an instruction may write, its `advance()` included (R154, R155). -/
def mayWrite (i : Instr) (s : State) : List Loc :=
  if isHlt i then armWrites i s else .pcAddress :: .pendingJump :: armWrites i s

/-- The program address after the one given: `(address + 1) mod 64` (R27 (c)). -/
def nextSlot (a : ProgAddr) : ProgAddr := .slot (BitVec.ofNat 6 (a.toNat + 1))

/-- Where a taken branch with operand `v` leaves `pc.address` (R27 (b), R134): at `v[5:0]`, but in the mode `overrun`
at `v` itself where `v` is 64 or more. -/
def JumpedTo (m : BranchTargetMode) (v : Word) (a : ProgAddr) : Prop :=
  match m with
  | .wrap64 => a = .slot (v.setWidth 6)
  | .overrun => (v.toNat < 64 → a = .slot (v.setWidth 6)) ∧ (64 ≤ v.toNat → a = .beyond v)

/-- The values that `pc.address` may have in a mode (R41): in `wrap64` the 64 slots only. -/
def ProgAddr.legal (m : BranchTargetMode) : ProgAddr → Bool
  | .slot _ => true
  | .beyond t => decide (m = .overrun) && decide (64 ≤ t.toNat)

/-- The invariant of a step boundary (R21, R29, R41), as far as the types of State do not say it. -/
abbrev State.Inv (s : State) : Prop :=
  s.ram.wf = true ∧ s.prog.length ≤ 64 ∧ s.pendingJump = none ∧
    s.pcAddress.legal s.params.branchTargetMode = true

/-- The machine has not stopped with a fault or a refusal. -/
def Result.goesOn (r : Result) : Prop := ∃ t, r = .next t

end Sys2Proof.Machine
end

