-- ==== Sys2Proof/Certificates/Slice0/Obligations.lean ====
section
/-! DEFINITION. The statements for the provers. A premise `s.pendingJump = none` is the part of the invariant of a step
boundary (`State.Inv`, R29) that an instruction's own effect rests on: `StepKeepsTheInvariant` and
`ResetMeetsTheInvariant` state the invariant. -/

open Sys2Proof Sys2Proof.Machine

/-! ### Encoding (spec/30_encoding.md; the opcode numbers are the spec's decision D2, notes/assumptions/9.md) -/

/-- Words written out in spec/95_test_vectors.md section 2.10 decode to the records beside them. -/
def Obligations.WordsOfTheVectorsDecode : Prop :=
  decodeWord 0x000000 = .nop (some 0) (some 0) ∧
  decodeWord 0x280014 = .lva (some 5) (some 0) ∧
  decodeWord 0x2BFFFF = .lva (some 65535) (some 3) ∧
  decodeWord 0x100015 = .brl (some 5) (some 1) ∧
  decodeWord 0x543FC3 = .rnr (some 4080) (some 3) ∧
  decodeWord 0x73FFFF = .hlt (some 65535) (some 3)

/-- For every record: its word decodes to the record with 0 in each absent field, and to the record itself where both
fields are present. -/
def Obligations.DecodeOfEncodeIsTheRecord : Prop :=
  ∀ i : Instr, decodeWord (encode i) = filled i ∧
    (i.operand.isSome = true → i.aluSelect.isSome = true → decodeWord (encode i) = i)

/-- For every word, the reserved IDs included: encoding what it decodes to gives the word back. -/
def Obligations.EncodeOfDecodeIsTheWord : Prop :=
  ∀ w : InstrWord, encode (decodeWord w) = w

/-- The word of a record as a number is opc * 2^18 + imm * 2^2 + sel. -/
def Obligations.AssembledWordAsANumber : Prop :=
  ∀ i : Instr, (encode i).toNat =
    (opcodeId i).toNat * 2 ^ 18 + (i.operand.getD 0).toNat * 2 ^ 2 + (i.aluSelect.getD 0).toNat

/-- Assembly and decoding of a well-formed record do not change what it does. -/
def Obligations.FilledRecordRunsAlike : Prop :=
  ∀ (i : Instr) (s : State), i.wf = true → exec (filled i) s = exec i s

/-- Two records of one opcode that agree on the fields the opcode uses do the same in every state. -/
def Obligations.UnusedFieldsAreIgnored : Prop :=
  ∀ (i j : Instr) (s : State), opcodeId i = opcodeId j →
    (i.usesOperand = true → i.operand = j.operand) →
    (i.usesSel = true → i.aluSelect = j.aluSelect) →
    exec i s = exec j s

/-- In every one-to-one numbering of the opcodes (`OPCODE_ID`, R101, D2, notes/assumptions/9.md): the word of a record
carries the record's number, decoding it gives the record with 0 in each absent field, and encoding what a word decodes to
gives the word back. -/
def Obligations.AnyNumberingRoundTrips : Prop :=
  ∀ ids : OpcodeIds, validOpcodeIds ids = true →
    (∀ i : Instr, opcField (encodeIn ids i) = opcodeIdIn ids i ∧ decodeWordIn ids (encodeIn ids i) = filled i) ∧
    (∀ w : InstrWord, encodeIn ids (decodeWordIn ids w) = w)

/-- The guard of the program store, in every numbering: in the mode `refuse` (D5) it reports a word whose ID is that of no
mnemonic, by that ID; it lets a word with a mnemonic's ID, and in the mode `nop` every word, through. In the default
numbering the IDs without a mnemonic are 29 to 31. -/
def Obligations.ReservedWordsAreReported : Prop :=
  ∀ (ids : OpcodeIds) (m : ReservedOpcodeMode) (w : InstrWord),
    (m = .refuse → (∀ i : Instr, i.isReserved = false → opcodeIdIn ids i ≠ opcField w) →
      decodeProgramWord ids m w = .error (.reservedOpcode (opcField w))) ∧
    (∀ i : Instr, i.isReserved = false → opcodeIdIn ids i = opcField w →
      decodeProgramWord ids m w = .ok (decodeWordIn ids w)) ∧
    (m = .nop → decodeProgramWord ids m w = .ok (decodeWordIn ids w)) ∧
    (ids = Config.defaultOpcodeIds → m = .refuse → 29 ≤ (opcField w).toNat →
      decodeProgramWord ids m w = .error (.reservedOpcode (opcField w))) ∧
    (ids = Config.defaultOpcodeIds → (opcField w).toNat < 29 → decodeProgramWord ids m w = .ok (decodeWord w))

/-! ### Arithmetic and memory -/

/-- R130: the residue modulo 2^N, for any integer and any width. -/
def Obligations.TruncIsTheResidue : Prop :=
  ∀ (n : Nat) (v : Int), ((trunc n v).toNat : Int) = v % (2 : Int) ^ n ∧
    (0 ≤ v → v < (2 : Int) ^ n → ((trunc n v).toNat : Int) = v)

/-- R133: cutting to 16 bits first makes no difference. -/
def Obligations.RetruncationLaw : Prop :=
  ∀ (w : Nat) (v : Int), w ≤ 16 → trunc w v = trunc w ((trunc 16 v).toNat : Int)

/-- A cell reads as the last value written to it, and a write leaves every other cell alone, in every canonical memory. -/
def Obligations.ReadAfterWrite : Prop :=
  ∀ (m : Memory) (a b : Nat) (v : Word), m.wf = true →
    (m.write a v).read b = if b = a then v else m.read b

/-! ### The step -/

/-- A step at a running state whose program holds a record at `pc.address` is that record's `exec`, then the handoff
where the machine still runs; a fault and a refusal end the step. -/
def Obligations.StepRunsTheFetchedRecord : Prop :=
  ∀ (s : State) (i : Instr), s.status = .running → s.prog[s.pcAddress.toNat]? = some i →
    (∀ t, exec i s = .next t → t.status = .running → step s = .next (handoff t)) ∧
    (∀ t, exec i s = .next t → t.status ≠ .running → step s = .next t) ∧
    (∀ f, exec i s = .fault f → step s = .fault f) ∧
    (∀ r, exec i s = .refused r → step s = .refused r)

/-- A word placed where a running machine fetches is decoded and run by the next step, in a state that differs from the
one before in the program store alone. -/
def Obligations.StepRunsThePlacedWord : Prop :=
  ∀ (s : State) (a : ProgIndex) (w : InstrWord), s.status = .running → s.pcAddress = .slot a →
    step (s.withFetchWord 24 w.toNat) = afterInstr (exec (decodeWord w) (s.withFetchWord 24 w.toNat)) ∧
    UnchangedBut [.prog] s (s.withFetchWord 24 w.toNat) ∧
    (∀ b : Nat, b ≠ a.toNat → b < s.prog.length → (s.withFetchWord 24 w.toNat).prog[b]? = s.prog[b]?)

/-- R136: at or beyond the program length the step halts before any fetch and changes the status alone. -/
def Obligations.OverrunHaltsBeforeFetch : Prop :=
  ∀ s : State, s.status = .running → s.prog.length ≤ s.pcAddress.toNat →
    ∃ t, step s = .next t ∧ t.status = .haltedOverrun ∧ UnchangedBut [.status] s t

/-- In every status but `Running` a step request changes nothing. That it answers the same state is the model's reading
(notes/assumptions/8.md). -/
def Obligations.OnlyARunningMachineSteps : Prop :=
  ∀ s : State, s.status ≠ .running → step s = .next s

/-- The boundary after an instruction that left the machine running: the first listed handoff is taken, its key only
where none is pending, then its stop; where none is listed nothing happens (notes/assumptions/5.md). -/
def Obligations.BoundaryTakesKeyThenStop : Prop :=
  ∀ (s : State) (i : Instr) (t : State), s.status = .running → fetch s = some i → exec i s = .next t →
    t.status = .running →
    (t.handoffs = [] → step s = .next t) ∧
    (∀ h hs, t.handoffs = h :: hs → ∃ u, step s = .next u ∧ u.handoffs = hs ∧
      u.pendingKey = (if t.pendingKey = none then h.key else t.pendingKey) ∧
      u.status = (if h.stop = true then .stopped else .running) ∧
      UnchangedBut [.handoffs, .pendingKey, .status] t u)

/-- A halting step leaves `pc.address`, for `HLT` at the `HLT` and for the overrun at the out-of-range address. For `HLT`
nothing but the status changes, so no key is taken from the host (D21). -/
def Obligations.HaltingStepKeepsTheAddress : Prop :=
  ∀ s : State, s.status = .running →
    (∀ v k, fetch s = some (.hlt v k) →
      ∃ t, step s = .next t ∧ t.status = .haltedHlt ∧ t.pcAddress = s.pcAddress ∧ UnchangedBut [.status] s t) ∧
    (s.prog.length ≤ s.pcAddress.toNat →
      ∃ t, step s = .next t ∧ t.status = .haltedOverrun ∧ t.pcAddress = s.pcAddress)

/-- R135: `advance()` takes the pending jump and clears it, or goes to the next address, from 63 to 0. Every instruction
that completes calls it once and last, on the state `u` that its arm leaves: for a branch the state before or what `jump`
makes of it, for any other instruction a state with the instruction's own address, no new pending jump and nothing written
outside the arm's row. `HLT` does not call it. -/
def Obligations.AdvanceTakesTheJumpOrTheNextSlot : Prop :=
  (∀ s : State,
    (∀ t, s.pendingJump = some t → (advance s).pcAddress = t) ∧
    (s.pendingJump = none → (advance s).pcAddress = nextSlot s.pcAddress) ∧
    (s.pendingJump = none → s.pcAddress = .slot 63 → (advance s).pcAddress = .slot 0) ∧
    (advance s).pendingJump = none ∧
    UnchangedBut [.pcAddress, .pendingJump] s (advance s)) ∧
  (∀ (i : Instr) (s t : State), exec i s = .next t →
    (isHlt i = false → ∃ u, t = advance u ∧
      (isBranch i = true → u = s ∨ ∃ v, i.operand = some v ∧ u = jump v s) ∧
      (isBranch i = false → u.pcAddress = s.pcAddress ∧ u.pendingJump = s.pendingJump ∧
        (s.ram.wf = true → UnchangedBut (armWrites i s) s u))) ∧
    (isHlt i = true → t.pcAddress = s.pcAddress ∧ t.pendingJump = s.pendingJump))

/-- What a step can do to the run status of a running machine. -/
def Obligations.StatusAfterAStep : Prop :=
  ∀ s t : State, s.status = .running → step s = .next t →
    (t.status = .haltedHlt ↔ ∃ v k, fetch s = some (.hlt v k)) ∧
    (t.status = .haltedOverrun ↔ s.prog.length ≤ s.pcAddress.toNat) ∧
    t.status ≠ .fault

/-- A program of 64 records never overruns in the mode `wrap64`, in any state that meets the invariant. -/
def Obligations.FullProgramNeverOverruns : Prop :=
  ∀ s t : State, s.Inv → s.params.branchTargetMode = .wrap64 → s.prog.length = 64 → s.status = .running →
    step s = .next t → t.status ≠ .haltedOverrun

/-! ### Branches (the target of 64 or more is D7 and the direction of more and less is D12) -/

/-- `BRA` goes to its target, whatever the state, and changes nothing else. -/
def Obligations.BraGoesToItsTarget : Prop :=
  ∀ (s : State) (v : Word) (k : Option Sel), s.pendingJump = none →
    ∃ t, exec (.bra (some v) k) s = .next t ∧ JumpedTo s.params.branchTargetMode v t.pcAddress ∧
      UnchangedBut [.pcAddress] s t

/-- `BRM`, `BRE` and `BRL` compare A with B of the selected unit as unsigned numbers, as they are now: taken, the target;
not taken, the next address; nothing else changes. -/
def Obligations.CompareBranchesTestAAgainstB : Prop :=
  ∀ (s : State) (v : Word) (k : Sel), s.pendingJump = none →
    (∃ t, exec (.brm (some v) (some k)) s = .next t ∧ UnchangedBut [.pcAddress] s t ∧
      if (s.alu k).b.toNat < (s.alu k).a.toNat then JumpedTo s.params.branchTargetMode v t.pcAddress
      else t.pcAddress = nextSlot s.pcAddress) ∧
    (∃ t, exec (.bre (some v) (some k)) s = .next t ∧ UnchangedBut [.pcAddress] s t ∧
      if (s.alu k).a = (s.alu k).b then JumpedTo s.params.branchTargetMode v t.pcAddress
      else t.pcAddress = nextSlot s.pcAddress) ∧
    (∃ t, exec (.brl (some v) (some k)) s = .next t ∧ UnchangedBut [.pcAddress] s t ∧
      if (s.alu k).a.toNat < (s.alu k).b.toNat then JumpedTo s.params.branchTargetMode v t.pcAddress
      else t.pcAddress = nextSlot s.pcAddress)

/-- `BRI` is taken while a key is pending and does not consume it. -/
def Obligations.BriTestsThePendingKey : Prop :=
  ∀ (s : State) (v : Word) (k : Option Sel), s.pendingJump = none →
    ∃ t, exec (.bri (some v) k) s = .next t ∧ UnchangedBut [.pcAddress] s t ∧
      if s.pendingKey = none then t.pcAddress = nextSlot s.pcAddress
      else JumpedTo s.params.branchTargetMode v t.pcAddress

/-- Of `BRM`, `BRE` and `BRL` on one unit with one target, in one state, exactly one is taken: exactly one of the three
does what `BRA` does with that target, the other two do what the no-op does. -/
def Obligations.ExactlyOneCompareBranchIsTaken : Prop :=
  ∀ (s : State) (v : Word) (k : Sel),
    let taken := exec (.bra (some v) none) s
    let untaken := exec (.nop none none) s
    let m := exec (.brm (some v) (some k)) s
    let e := exec (.bre (some v) (some k)) s
    let l := exec (.brl (some v) (some k)) s
    (m = taken ∧ e = untaken ∧ l = untaken) ∨ (m = untaken ∧ e = taken ∧ l = untaken) ∨
      (m = untaken ∧ e = untaken ∧ l = taken)

/-- A taken branch to an address at or beyond the program length is no fault: the step after it halts with the length
overrun, and `pc.address` still holds the target. -/
def Obligations.BranchBeyondTheProgramOverruns : Prop :=
  ∀ (s t : State) (v : Word) (k : Option Sel), s.status = .running → s.prog.length ≤ 64 →
    fetch s = some (.bra (some v) k) → step s = .next t → t.status = .running →
    (s.params.branchTargetMode = .wrap64 → s.prog.length ≤ v.toNat % 64) →
    (s.params.branchTargetMode = .overrun → s.prog.length ≤ v.toNat) →
    ∃ u, step t = .next u ∧ u.status = .haltedOverrun ∧ JumpedTo s.params.branchTargetMode v u.pcAddress

/-! ### Memory addressing and memory write -/

/-- R143: `RAV` puts the low five bits of its operand, and `RAA` those of the selected accumulator, into the cursor. -/
def Obligations.RavAndRaaSetTheCursor : Prop :=
  ∀ (s : State) (x : Word) (k : Sel) (v : Option Word) (j : Option Sel), s.pendingJump = none →
    (∃ t, exec (.rav (some x) j) s = .next t ∧ t.ramCursor.toNat = x.toNat % 32 ∧
      t.pcAddress = nextSlot s.pcAddress ∧ UnchangedBut [.ramCursor, .pcAddress] s t) ∧
    (∃ t, exec (.raa v (some k)) s = .next t ∧ t.ramCursor.toNat = (s.alu k).acc.toNat % 32 ∧
      t.pcAddress = nextSlot s.pcAddress ∧ UnchangedBut [.ramCursor, .pcAddress] s t)

/-- R144: `STV` writes its operand, and `STA` the selected accumulator, to the cell at the cursor; the cursor does not
move and no other cell changes. -/
def Obligations.StvAndStaWriteTheCurrentCell : Prop :=
  ∀ (s : State) (x : Word) (k : Sel) (v : Option Word) (j : Option Sel), s.ram.wf = true → s.pendingJump = none →
    (∃ t, exec (.stv (some x) j) s = .next t ∧ t.ram.read s.ramCursor.toNat = x ∧
      t.pcAddress = nextSlot s.pcAddress ∧ UnchangedBut [.ram s.ramCursor.toNat, .pcAddress] s t) ∧
    (∃ t, exec (.sta v (some k)) s = .next t ∧ t.ram.read s.ramCursor.toNat = (s.alu k).acc ∧
      t.pcAddress = nextSlot s.pcAddress ∧ UnchangedBut [.ram s.ramCursor.toNat, .pcAddress] s t)

/-! ### Register loads -/

/-- R141: `LVA` and `LVB` put all 16 bits of the operand into A or B of the selected unit, and nothing else changes. -/
def Obligations.LvaAndLvbLoadTheOperand : Prop :=
  ∀ (s : State) (x : Word) (k : Sel), s.pendingJump = none →
    (∃ t, exec (.lva (some x) (some k)) s = .next t ∧ (t.alu k).a = x ∧
      t.pcAddress = nextSlot s.pcAddress ∧ UnchangedBut [.aluA k, .pcAddress] s t) ∧
    (∃ t, exec (.lvb (some x) (some k)) s = .next t ∧ (t.alu k).b = x ∧
      t.pcAddress = nextSlot s.pcAddress ∧ UnchangedBut [.aluB k, .pcAddress] s t)

/-- `LRA` and `LRB` put the cell at the cursor into A or B of the selected unit; the cell and the cursor are unchanged.
That they use the selector is the spec's decision D26. -/
def Obligations.LraAndLrbLoadTheCurrentCell : Prop :=
  ∀ (s : State) (v : Option Word) (k : Sel), s.pendingJump = none →
    (∃ t, exec (.lra v (some k)) s = .next t ∧ (t.alu k).a = s.ram.read s.ramCursor.toNat ∧
      t.pcAddress = nextSlot s.pcAddress ∧ UnchangedBut [.aluA k, .pcAddress] s t) ∧
    (∃ t, exec (.lrb v (some k)) s = .next t ∧ (t.alu k).b = s.ram.read s.ramCursor.toNat ∧
      t.pcAddress = nextSlot s.pcAddress ∧ UnchangedBut [.aluB k, .pcAddress] s t)

/-- `LAA` and `LAB` put the selected unit's own accumulator into its A or B. That they use the selector is the spec's
decision D26. -/
def Obligations.LaaAndLabLoadTheOwnAccumulator : Prop :=
  ∀ (s : State) (v : Option Word) (k : Sel), s.pendingJump = none →
    (∃ t, exec (.laa v (some k)) s = .next t ∧ (t.alu k).a = (s.alu k).acc ∧
      t.pcAddress = nextSlot s.pcAddress ∧ UnchangedBut [.aluA k, .pcAddress] s t) ∧
    (∃ t, exec (.lab v (some k)) s = .next t ∧ (t.alu k).b = (s.alu k).acc ∧
      t.pcAddress = nextSlot s.pcAddress ∧ UnchangedBut [.aluB k, .pcAddress] s t)

/-! ### Compute -/

/-- R137, R138: `ADD` and `SUB` put the sum and the difference A minus B, modulo 65536, into the selected accumulator; A,
B and everything else are unchanged. -/
def Obligations.AddAndSubWrapAt65536 : Prop :=
  ∀ (s : State) (v : Option Word) (k : Sel), s.pendingJump = none →
    (∃ t, exec (.add v (some k)) s = .next t ∧
      (t.alu k).acc.toNat = ((s.alu k).a.toNat + (s.alu k).b.toNat) % 65536 ∧
      t.pcAddress = nextSlot s.pcAddress ∧ UnchangedBut [.aluAcc k, .pcAddress] s t) ∧
    (∃ t, exec (.sub v (some k)) s = .next t ∧
      (t.alu k).acc.toNat =
        (if (s.alu k).b.toNat ≤ (s.alu k).a.toNat then (s.alu k).a.toNat - (s.alu k).b.toNat
         else (s.alu k).a.toNat + 65536 - (s.alu k).b.toNat) ∧
      t.pcAddress = nextSlot s.pcAddress ∧ UnchangedBut [.aluAcc k, .pcAddress] s t)

/-- R139: `AND`, `OR` and `XOR` combine A and B bit by bit into the selected accumulator; A, B and everything else
are unchanged. -/
def Obligations.BitwiseOpsActBitByBit : Prop :=
  ∀ (s : State) (v : Option Word) (k : Sel), s.pendingJump = none →
    (∃ t, exec (.and v (some k)) s = .next t ∧
      (∀ n < 16, (t.alu k).acc.getLsbD n = ((s.alu k).a.getLsbD n && (s.alu k).b.getLsbD n)) ∧
      t.pcAddress = nextSlot s.pcAddress ∧ UnchangedBut [.aluAcc k, .pcAddress] s t) ∧
    (∃ t, exec (.or v (some k)) s = .next t ∧
      (∀ n < 16, (t.alu k).acc.getLsbD n = ((s.alu k).a.getLsbD n || (s.alu k).b.getLsbD n)) ∧
      t.pcAddress = nextSlot s.pcAddress ∧ UnchangedBut [.aluAcc k, .pcAddress] s t) ∧
    (∃ t, exec (.xor v (some k)) s = .next t ∧
      (∀ n < 16, (t.alu k).acc.getLsbD n = decide ((s.alu k).a.getLsbD n ≠ (s.alu k).b.getLsbD n)) ∧
      t.pcAddress = nextSlot s.pcAddress ∧ UnchangedBut [.aluAcc k, .pcAddress] s t)

/-! ### Randomness (the draw is a host input or the free value, notes/assumptions/6.md) -/

/-- `RNR` writes the draw AND the mask to the cell at the cursor: no bit outside the mask is set, with mask 65535 it is
the draw itself, with mask 0 it is 0, and one draw is taken. It holds for every value of the free draw. -/
def Obligations.RnrStoresAMaskedDraw : Prop :=
  ∀ (s : State) (m : Word) (k : Option Sel), s.ram.wf = true → s.pendingJump = none →
    ∃ t, exec (.rnr (some m) k) s = .next t ∧
      t.ram.read s.ramCursor.toNat = nextDraw s &&& m ∧
      t.ram.read s.ramCursor.toNat &&& ~~~m = 0 ∧
      (m = 65535 → t.ram.read s.ramCursor.toNat = nextDraw s) ∧
      (m = 0 → t.ram.read s.ramCursor.toNat = 0) ∧
      t.drawCount = s.drawCount + 1 ∧ t.draws = s.draws.tail ∧
      t.pcAddress = nextSlot s.pcAddress ∧
      UnchangedBut [.ram s.ramCursor.toNat, .draws, .drawCount, .pcAddress] s t

/-- Every value inside the mask is stored for some draw that the host supplies, and no other value is. -/
def Obligations.RnrReachesExactlyTheMaskedValues : Prop :=
  ∀ (s : State) (m x : Word) (rest : List Word), s.ram.wf = true →
    ((∃ r t, exec (.rnr (some m) none) { s with draws := r :: rest } = .next t ∧
      t.ram.read s.ramCursor.toNat = x ∧ t.draws = rest) ↔ x &&& ~~~m = 0)

/-! ### Input -/

/-- R147, R148: `RIA` puts the low three bits of its operand into the input cursor; `RIV` writes its operand to the slot at
the cursor. Neither touches the pending key. -/
def Obligations.RiaAndRivSetUpTheSlots : Prop :=
  ∀ (s : State) (x : Word) (k : Option Sel), s.pendingJump = none →
    (∃ t, exec (.ria (some x) k) s = .next t ∧ t.inputCursor.toNat = x.toNat % 8 ∧
      t.pcAddress = nextSlot s.pcAddress ∧ UnchangedBut [.inputCursor, .pcAddress] s t) ∧
    (∃ t, exec (.riv (some x) k) s = .next t ∧ t.inputSlot s.inputCursor = x ∧
      t.pcAddress = nextSlot s.pcAddress ∧ UnchangedBut [.inputSlot s.inputCursor, .pcAddress] s t)

/-- `SIA`, `SIB` and `SIR` deliver the pending slot's value as it is now, or 0 where nothing is pending, and leave nothing
pending. That `SIA` and `SIB` use the selector is the spec's decision D26. -/
def Obligations.InputReadsConsumeTheKey : Prop :=
  ∀ (s : State) (v : Option Word) (j : Option Sel) (k : Sel) (x : Word), s.ram.wf = true → s.pendingJump = none →
    (s.pendingKey = none → x = 0) → (∀ n, s.pendingKey = some n → x = s.inputSlot n) →
    (∃ t, exec (.sia v (some k)) s = .next t ∧ (t.alu k).a = x ∧ t.pendingKey = none ∧
      t.pcAddress = nextSlot s.pcAddress ∧ UnchangedBut [.aluA k, .pendingKey, .pcAddress] s t) ∧
    (∃ t, exec (.sib v (some k)) s = .next t ∧ (t.alu k).b = x ∧ t.pendingKey = none ∧
      t.pcAddress = nextSlot s.pcAddress ∧ UnchangedBut [.aluB k, .pendingKey, .pcAddress] s t) ∧
    (∃ t, exec (.sir v j) s = .next t ∧ t.ram.read s.ramCursor.toNat = x ∧ t.pendingKey = none ∧
      t.pcAddress = nextSlot s.pcAddress ∧
      UnchangedBut [.ram s.ramCursor.toNat, .pendingKey, .pcAddress] s t)

/-- A key is read once: a step that runs `SIR`, at whose boundary the host offers no key, and then a step that runs `SIR`
again, leave 0 in the cell at the cursor. -/
def Obligations.SecondReadWithoutAKeyGivesZero : Prop :=
  ∀ (s t u : State) (v v' : Option Word) (k k' : Option Sel), s.ram.wf = true → s.status = .running →
    fetch s = some (.sir v k) → step s = .next t → t.status = .running →
    (s.handoffs = [] ∨ ∃ h hs, s.handoffs = h :: hs ∧ h.key = none) →
    fetch t = some (.sir v' k') → step t = .next u → u.ram.read s.ramCursor.toNat = 0

/-- No instruction sets the pending key, and only `SIA`, `SIB` and `SIR` clear it. -/
def Obligations.NoInstructionSetsThePendingKey : Prop :=
  ∀ (i : Instr) (s t : State), exec i s = .next t →
    t.pendingKey = s.pendingKey ∨
      (t.pendingKey = none ∧ ∃ v k, i = .sia v k ∨ i = .sib v k ∨ i = .sir v k)

/-! ### Display and control -/

/-- R146: `CSM` zeroes the cells 0 to 15, leaves 16 to 31 untouched, and neither uses nor moves the cursor. -/
def Obligations.CsmClearsTheScreenOnly : Prop :=
  ∀ (s : State) (v : Option Word) (k : Option Sel), s.ram.wf = true → s.pendingJump = none →
    ∃ t, exec (.csm v k) s = .next t ∧ (∀ a < 16, t.ram.read a = 0) ∧ (∀ a, 16 ≤ a → t.ram.read a = s.ram.read a) ∧
      t.pcAddress = nextSlot s.pcAddress ∧ UnchangedBut (.pcAddress :: (List.range 16).map .ram) s t

/-- R251: `HLT` sets the status and changes nothing else, whatever the state; and no other instruction changes the
status. -/
def Obligations.OnlyHltHalts : Prop :=
  (∀ (s : State) (v : Option Word) (k : Option Sel),
    ∃ t, exec (.hlt v k) s = .next t ∧ t.status = .haltedHlt ∧ UnchangedBut [.status] s t) ∧
  (∀ (i : Instr) (s t : State), exec i s = .next t → t.status ≠ s.status → ∃ v k, i = .hlt v k)

/-- The no-op goes to the next address and does nothing else. -/
def Obligations.NopOnlyAdvances : Prop :=
  ∀ (s : State) (v : Option Word) (k : Option Sel), s.pendingJump = none →
    ∃ t, exec (.nop v k) s = .next t ∧ t.pcAddress = nextSlot s.pcAddress ∧ UnchangedBut [.pcAddress] s t

/-- The three reserved IDs: in the mode `nop` each executes exactly as the no-op, in the mode `refuse` each is refused by
its number and never executed (D5). -/
def Obligations.ReservedIdsFollowTheMode : Prop :=
  ∀ (s : State) (v : Option Word) (k : Option Sel),
    (s.params.reservedOpcodeMode = .nop → s.pendingJump = none →
      ∃ t, t.pcAddress = nextSlot s.pcAddress ∧ UnchangedBut [.pcAddress] s t ∧
        exec (.nop v k) s = .next t ∧ exec (.reserved29 v k) s = .next t ∧
        exec (.reserved30 v k) s = .next t ∧ exec (.reserved31 v k) s = .next t) ∧
    (s.params.reservedOpcodeMode = .refuse →
      exec (.reserved29 v k) s = .refused (.reservedOpcode 29) ∧
      exec (.reserved30 v k) s = .refused (.reservedOpcode 30) ∧
      exec (.reserved31 v k) s = .refused (.reservedOpcode 31))

/-! ### Contract violations (D8, D9) -/

/-- An instruction faults exactly where a field it uses is absent: the selector is looked at first. -/
def Obligations.FaultsExactlyOnAnAbsentField : Prop :=
  ∀ (i : Instr) (s : State),
    (exec i s = .fault .noAluSelect ↔ i.usesSel = true ∧ i.aluSelect = none) ∧
    (exec i s = .fault .noOperand ↔
      (i.usesSel = true → i.aluSelect ≠ none) ∧ i.usesOperand = true ∧ i.operand = none)

/-- A record that was decoded from a word has both fields, so it never faults. -/
def Obligations.DecodedWordsNeverFault : Prop :=
  ∀ (w : InstrWord) (s : State) (f : Fault), exec (decodeWord w) s ≠ .fault f

/-- Every well-formed record that its mode admits completes in every state. -/
def Obligations.WellFormedRecordsComplete : Prop :=
  ∀ (i : Instr) (s : State), i.wf = true → i.admitted s.params.reservedOpcodeMode = true →
    ∃ t, exec i s = .next t

/-! ### Whole-machine rules -/

/-- Whatever an instruction is and whatever the state, it writes nothing outside its row of the table of R154. -/
def Obligations.InstructionsWriteOnlyTheirRow : Prop :=
  ∀ (i : Instr) (s t : State), s.ram.wf = true → exec i s = .next t → UnchangedBut (mayWrite i s) s t

/-- A unit that an instruction does not select is neither read nor written: running the instruction with other contents
in that unit gives the same outcome, with those contents still there. -/
def Obligations.UnselectedUnitsDoNotMatter : Prop :=
  ∀ (i : Instr) (s : State) (j : Sel) (u : Alu), (i.usesSel = true → i.aluSelect ≠ some j) →
    exec i (setAlu j u s) =
      match exec i s with
      | .next t => .next (setAlu j u t)
      | .fault f => .fault f
      | .refused r => .refused r

/-- The state after reset meets the invariant. -/
def Obligations.ResetMeetsTheInvariant : Prop := State.reset.Inv

/-- Every step keeps the invariant: canonical memory, at most 64 records, no pending jump, and a program address that the
mode allows. -/
def Obligations.StepKeepsTheInvariant : Prop :=
  ∀ s t : State, s.Inv → step s = .next t → t.Inv

/-- R72: no step changes the program store, so the same address always fetches the same record. -/
def Obligations.StepsNeverChangeTheProgram : Prop :=
  ∀ s t : State, step s = .next t →
    t.prog = s.prog ∧ t.params = s.params ∧ (t.pcAddress = s.pcAddress → fetch t = fetch s)

/-- A machine that holds a valid program never faults and is never refused: every step request answers a next state, and
the program is still valid in it. -/
def Obligations.ValidProgramsNeverGoWrong : Prop :=
  ∀ s : State, validProgram s.params s.prog = true →
    ∃ t, step s = .next t ∧ validProgram t.params t.prog = true

/-! ### Reset and load -/

/-- The state after reset. The values of the cells, the units and the slots, the two modes and the empty lists are the
model's (notes/assumptions/1.md, 2.md, 3.md, 5.md, 7.md, 11.md). -/
def Obligations.ResetState : Prop :=
  State.reset.pcAddress = .slot 0 ∧ State.reset.pendingJump = none ∧ State.reset.ramCursor = 0 ∧
  (∀ a, State.reset.ram.read a = 0) ∧ (∀ k, State.reset.alu k = ⟨0, 0, 0⟩) ∧ (∀ j, State.reset.inputSlot j = 0) ∧
  State.reset.inputCursor = 0 ∧ State.reset.pendingKey = none ∧ State.reset.status = .running ∧
  State.reset.prog = [] ∧ State.reset.params = ⟨.wrap64, .refuse⟩ ∧ State.reset.handoffs = [] ∧
  State.reset.draws = [] ∧ State.reset.drawCount = 0

/-- Reset puts every piece of state of the table of R40 at its reset value, each open one as asked, keeps the program
store and the modes, and the machine meets the invariant again and fetches the record at program address 0. The reset
values of the pending jump, the input cursor, the pending key and the status are decided (notes/assumptions/7.md). -/
def Obligations.ResetKeepsTheProgramAndStartsAtZero : Prop :=
  ∀ (rv : ResetValues) (s : State), s.prog.length ≤ 64 →
    (resetWith rv s).Inv ∧ (resetWith rv s).status = .running ∧ (resetWith rv s).prog = s.prog ∧
    (resetWith rv s).params = s.params ∧
    fetch (resetWith rv s) = s.prog[0]? ∧ (resetWith rv s).pcAddress = .slot 0 ∧
    (resetWith rv s).pendingJump = none ∧ (resetWith rv s).ramCursor = 0 ∧
    (resetWith rv s).inputCursor = 0 ∧ (resetWith rv s).pendingKey = none ∧
    (∀ a : Fin 32, (resetWith rv s).ram.read a.val = rv.ram[a.val]) ∧
    (∀ k : Sel, (resetWith rv s).alu k = rv.alus[k.toNat]'k.isLt) ∧
    (∀ j : SlotIndex, (resetWith rv s).inputSlot j = rv.inputSlots[j.toNat]'j.isLt)

/-- What a load of words leaves, in every numbering of the opcodes, where it succeeds: the decoded records in order, at most 64, each admitted by the mode,
and everything else unchanged; and it fails where a word is not admitted or the program is too long. -/
def Obligations.LoadPlacesTheDecodedWords : Prop :=
  ∀ (ids : OpcodeIds) (ws : List InstrWord) (s : State),
    (∀ t, loadWords ids ws s = .ok t →
      t.prog = ws.map (decodeWordIn ids) ∧ t.prog.length ≤ 64 ∧
      (∀ i ∈ t.prog, i.admitted s.params.reservedOpcodeMode = true) ∧ UnchangedBut [.prog] s t) ∧
    (ws.length ≤ 64 → (∀ w ∈ ws, (decodeWordIn ids w).admitted s.params.reservedOpcodeMode = true) →
      ∃ t, loadWords ids ws s = .ok t)

/-- Where a program text is accepted, line `n` gives the record at program address `n`, and there are at most 64
records. A text of at most 64 lines, each of which gives a record, is accepted; a text of more than 64 lines is rejected
as that, and one with a line that gives no record is rejected. -/
def Obligations.ProgramTextGivesOneRecordPerLine : Prop :=
  ∀ ls : List (List Char),
    (∀ prog, programOfText ls = .ok prog →
      prog.length = ls.length ∧ prog.length ≤ 64 ∧
      ∀ n l, ls[n]? = some l → ∃ i, prog[n]? = some i ∧ recordOfLine n l = .ok i) ∧
    (ls.length ≤ 64 → (∀ n l, ls[n]? = some l → ∃ i, recordOfLine n l = .ok i) → ∃ prog, programOfText ls = .ok prog) ∧
    (64 < ls.length → programOfText ls = .error .tooManyLines) ∧
    (∀ n l e, ls[n]? = some l → recordOfLine n l = .error e → ∀ prog, programOfText ls ≠ .ok prog)

/-- The operand token (the literal grammar is the spec's decision D10, the placeholder D9, notes/assumptions/16.md): `.`
gives no operand; the decimal digits of a number give the number modulo 65536, with leading zeros as well; a token with any
other character, and an empty one, is rejected. -/
def Obligations.OperandTokenIsUnsignedDecimal : Prop :=
  operandOfText ['.'] = some none ∧ operandOfText [] = none ∧
  (∀ n z : Nat, operandOfText (List.replicate z '0' ++ Nat.toDigits 10 n) = some (some (BitVec.ofNat 16 n))) ∧
  (∀ (tok : List Char) (c : Char), c ∈ tok → c.isDigit = false → tok ≠ ['.'] → operandOfText tok = none)
end

