-- ==== Sys2Proof/Laws/State.lean ====
section
/-! SUPPORT. One lemma for each field and each update of the state, true by definition, so that no proof unfolds a
record update. -/

namespace Sys2Proof.Machine

/-! `setRamCursor` -/

@[simp] theorem setRamCursor_ram (a : RamAddr) (s : State) : (setRamCursor a s).ram = s.ram := rfl
@[simp] theorem setRamCursor_ramCursor (a : RamAddr) (s : State) : (setRamCursor a s).ramCursor = a := rfl
@[simp] theorem setRamCursor_alus (a : RamAddr) (s : State) : (setRamCursor a s).alus = s.alus := rfl
@[simp] theorem setRamCursor_pcAddress (a : RamAddr) (s : State) : (setRamCursor a s).pcAddress = s.pcAddress := rfl
@[simp] theorem setRamCursor_pendingJump (a : RamAddr) (s : State) : (setRamCursor a s).pendingJump = s.pendingJump := rfl
@[simp] theorem setRamCursor_inputSlots (a : RamAddr) (s : State) : (setRamCursor a s).inputSlots = s.inputSlots := rfl
@[simp] theorem setRamCursor_inputCursor (a : RamAddr) (s : State) : (setRamCursor a s).inputCursor = s.inputCursor := rfl
@[simp] theorem setRamCursor_pendingKey (a : RamAddr) (s : State) : (setRamCursor a s).pendingKey = s.pendingKey := rfl
@[simp] theorem setRamCursor_status (a : RamAddr) (s : State) : (setRamCursor a s).status = s.status := rfl
@[simp] theorem setRamCursor_prog (a : RamAddr) (s : State) : (setRamCursor a s).prog = s.prog := rfl
@[simp] theorem setRamCursor_params (a : RamAddr) (s : State) : (setRamCursor a s).params = s.params := rfl
@[simp] theorem setRamCursor_handoffs (a : RamAddr) (s : State) : (setRamCursor a s).handoffs = s.handoffs := rfl
@[simp] theorem setRamCursor_draws (a : RamAddr) (s : State) : (setRamCursor a s).draws = s.draws := rfl
@[simp] theorem setRamCursor_drawCount (a : RamAddr) (s : State) : (setRamCursor a s).drawCount = s.drawCount := rfl

/-! `writeAtCurrent` -/

@[simp] theorem writeAtCurrent_ram (v : Word) (s : State) : (writeAtCurrent v s).ram = s.ram.write s.ramCursor.toNat v := rfl
@[simp] theorem writeAtCurrent_ramCursor (v : Word) (s : State) : (writeAtCurrent v s).ramCursor = s.ramCursor := rfl
@[simp] theorem writeAtCurrent_alus (v : Word) (s : State) : (writeAtCurrent v s).alus = s.alus := rfl
@[simp] theorem writeAtCurrent_pcAddress (v : Word) (s : State) : (writeAtCurrent v s).pcAddress = s.pcAddress := rfl
@[simp] theorem writeAtCurrent_pendingJump (v : Word) (s : State) : (writeAtCurrent v s).pendingJump = s.pendingJump := rfl
@[simp] theorem writeAtCurrent_inputSlots (v : Word) (s : State) : (writeAtCurrent v s).inputSlots = s.inputSlots := rfl
@[simp] theorem writeAtCurrent_inputCursor (v : Word) (s : State) : (writeAtCurrent v s).inputCursor = s.inputCursor := rfl
@[simp] theorem writeAtCurrent_pendingKey (v : Word) (s : State) : (writeAtCurrent v s).pendingKey = s.pendingKey := rfl
@[simp] theorem writeAtCurrent_status (v : Word) (s : State) : (writeAtCurrent v s).status = s.status := rfl
@[simp] theorem writeAtCurrent_prog (v : Word) (s : State) : (writeAtCurrent v s).prog = s.prog := rfl
@[simp] theorem writeAtCurrent_params (v : Word) (s : State) : (writeAtCurrent v s).params = s.params := rfl
@[simp] theorem writeAtCurrent_handoffs (v : Word) (s : State) : (writeAtCurrent v s).handoffs = s.handoffs := rfl
@[simp] theorem writeAtCurrent_draws (v : Word) (s : State) : (writeAtCurrent v s).draws = s.draws := rfl
@[simp] theorem writeAtCurrent_drawCount (v : Word) (s : State) : (writeAtCurrent v s).drawCount = s.drawCount := rfl

/-! `resetScreenRegion` -/

@[simp] theorem resetScreenRegion_ram (s : State) : (resetScreenRegion s).ram = Memory.zeroBelow 16 s.ram := by unfold resetScreenRegion; rfl
@[simp] theorem resetScreenRegion_ramCursor (s : State) : (resetScreenRegion s).ramCursor = s.ramCursor := by unfold resetScreenRegion; rfl
@[simp] theorem resetScreenRegion_alus (s : State) : (resetScreenRegion s).alus = s.alus := by unfold resetScreenRegion; rfl
@[simp] theorem resetScreenRegion_pcAddress (s : State) : (resetScreenRegion s).pcAddress = s.pcAddress := by unfold resetScreenRegion; rfl
@[simp] theorem resetScreenRegion_pendingJump (s : State) : (resetScreenRegion s).pendingJump = s.pendingJump := by unfold resetScreenRegion; rfl
@[simp] theorem resetScreenRegion_inputSlots (s : State) : (resetScreenRegion s).inputSlots = s.inputSlots := by unfold resetScreenRegion; rfl
@[simp] theorem resetScreenRegion_inputCursor (s : State) : (resetScreenRegion s).inputCursor = s.inputCursor := by unfold resetScreenRegion; rfl
@[simp] theorem resetScreenRegion_pendingKey (s : State) : (resetScreenRegion s).pendingKey = s.pendingKey := by unfold resetScreenRegion; rfl
@[simp] theorem resetScreenRegion_status (s : State) : (resetScreenRegion s).status = s.status := by unfold resetScreenRegion; rfl
@[simp] theorem resetScreenRegion_prog (s : State) : (resetScreenRegion s).prog = s.prog := by unfold resetScreenRegion; rfl
@[simp] theorem resetScreenRegion_params (s : State) : (resetScreenRegion s).params = s.params := by unfold resetScreenRegion; rfl
@[simp] theorem resetScreenRegion_handoffs (s : State) : (resetScreenRegion s).handoffs = s.handoffs := by unfold resetScreenRegion; rfl
@[simp] theorem resetScreenRegion_draws (s : State) : (resetScreenRegion s).draws = s.draws := by unfold resetScreenRegion; rfl
@[simp] theorem resetScreenRegion_drawCount (s : State) : (resetScreenRegion s).drawCount = s.drawCount := by unfold resetScreenRegion; rfl

/-! `setAlu` -/

@[simp] theorem setAlu_ram (k : Sel) (u : Alu) (s : State) : (setAlu k u s).ram = s.ram := rfl
@[simp] theorem setAlu_ramCursor (k : Sel) (u : Alu) (s : State) : (setAlu k u s).ramCursor = s.ramCursor := rfl
@[simp] theorem setAlu_alus (k : Sel) (u : Alu) (s : State) : (setAlu k u s).alus = s.alus.set k.toNat u k.isLt := rfl
@[simp] theorem setAlu_pcAddress (k : Sel) (u : Alu) (s : State) : (setAlu k u s).pcAddress = s.pcAddress := rfl
@[simp] theorem setAlu_pendingJump (k : Sel) (u : Alu) (s : State) : (setAlu k u s).pendingJump = s.pendingJump := rfl
@[simp] theorem setAlu_inputSlots (k : Sel) (u : Alu) (s : State) : (setAlu k u s).inputSlots = s.inputSlots := rfl
@[simp] theorem setAlu_inputCursor (k : Sel) (u : Alu) (s : State) : (setAlu k u s).inputCursor = s.inputCursor := rfl
@[simp] theorem setAlu_pendingKey (k : Sel) (u : Alu) (s : State) : (setAlu k u s).pendingKey = s.pendingKey := rfl
@[simp] theorem setAlu_status (k : Sel) (u : Alu) (s : State) : (setAlu k u s).status = s.status := rfl
@[simp] theorem setAlu_prog (k : Sel) (u : Alu) (s : State) : (setAlu k u s).prog = s.prog := rfl
@[simp] theorem setAlu_params (k : Sel) (u : Alu) (s : State) : (setAlu k u s).params = s.params := rfl
@[simp] theorem setAlu_handoffs (k : Sel) (u : Alu) (s : State) : (setAlu k u s).handoffs = s.handoffs := rfl
@[simp] theorem setAlu_draws (k : Sel) (u : Alu) (s : State) : (setAlu k u s).draws = s.draws := rfl
@[simp] theorem setAlu_drawCount (k : Sel) (u : Alu) (s : State) : (setAlu k u s).drawCount = s.drawCount := rfl

/-! `setRegisterA` -/

@[simp] theorem setRegisterA_ram (k : Sel) (v : Word) (s : State) : (setRegisterA k v s).ram = s.ram := rfl
@[simp] theorem setRegisterA_ramCursor (k : Sel) (v : Word) (s : State) : (setRegisterA k v s).ramCursor = s.ramCursor := rfl
@[simp] theorem setRegisterA_pcAddress (k : Sel) (v : Word) (s : State) : (setRegisterA k v s).pcAddress = s.pcAddress := rfl
@[simp] theorem setRegisterA_pendingJump (k : Sel) (v : Word) (s : State) : (setRegisterA k v s).pendingJump = s.pendingJump := rfl
@[simp] theorem setRegisterA_inputSlots (k : Sel) (v : Word) (s : State) : (setRegisterA k v s).inputSlots = s.inputSlots := rfl
@[simp] theorem setRegisterA_inputCursor (k : Sel) (v : Word) (s : State) : (setRegisterA k v s).inputCursor = s.inputCursor := rfl
@[simp] theorem setRegisterA_pendingKey (k : Sel) (v : Word) (s : State) : (setRegisterA k v s).pendingKey = s.pendingKey := rfl
@[simp] theorem setRegisterA_status (k : Sel) (v : Word) (s : State) : (setRegisterA k v s).status = s.status := rfl
@[simp] theorem setRegisterA_prog (k : Sel) (v : Word) (s : State) : (setRegisterA k v s).prog = s.prog := rfl
@[simp] theorem setRegisterA_params (k : Sel) (v : Word) (s : State) : (setRegisterA k v s).params = s.params := rfl
@[simp] theorem setRegisterA_handoffs (k : Sel) (v : Word) (s : State) : (setRegisterA k v s).handoffs = s.handoffs := rfl
@[simp] theorem setRegisterA_draws (k : Sel) (v : Word) (s : State) : (setRegisterA k v s).draws = s.draws := rfl
@[simp] theorem setRegisterA_drawCount (k : Sel) (v : Word) (s : State) : (setRegisterA k v s).drawCount = s.drawCount := rfl

/-! `setRegisterB` -/

@[simp] theorem setRegisterB_ram (k : Sel) (v : Word) (s : State) : (setRegisterB k v s).ram = s.ram := rfl
@[simp] theorem setRegisterB_ramCursor (k : Sel) (v : Word) (s : State) : (setRegisterB k v s).ramCursor = s.ramCursor := rfl
@[simp] theorem setRegisterB_pcAddress (k : Sel) (v : Word) (s : State) : (setRegisterB k v s).pcAddress = s.pcAddress := rfl
@[simp] theorem setRegisterB_pendingJump (k : Sel) (v : Word) (s : State) : (setRegisterB k v s).pendingJump = s.pendingJump := rfl
@[simp] theorem setRegisterB_inputSlots (k : Sel) (v : Word) (s : State) : (setRegisterB k v s).inputSlots = s.inputSlots := rfl
@[simp] theorem setRegisterB_inputCursor (k : Sel) (v : Word) (s : State) : (setRegisterB k v s).inputCursor = s.inputCursor := rfl
@[simp] theorem setRegisterB_pendingKey (k : Sel) (v : Word) (s : State) : (setRegisterB k v s).pendingKey = s.pendingKey := rfl
@[simp] theorem setRegisterB_status (k : Sel) (v : Word) (s : State) : (setRegisterB k v s).status = s.status := rfl
@[simp] theorem setRegisterB_prog (k : Sel) (v : Word) (s : State) : (setRegisterB k v s).prog = s.prog := rfl
@[simp] theorem setRegisterB_params (k : Sel) (v : Word) (s : State) : (setRegisterB k v s).params = s.params := rfl
@[simp] theorem setRegisterB_handoffs (k : Sel) (v : Word) (s : State) : (setRegisterB k v s).handoffs = s.handoffs := rfl
@[simp] theorem setRegisterB_draws (k : Sel) (v : Word) (s : State) : (setRegisterB k v s).draws = s.draws := rfl
@[simp] theorem setRegisterB_drawCount (k : Sel) (v : Word) (s : State) : (setRegisterB k v s).drawCount = s.drawCount := rfl

/-! `setAccumulator` -/

@[simp] theorem setAccumulator_ram (k : Sel) (v : Word) (s : State) : (setAccumulator k v s).ram = s.ram := rfl
@[simp] theorem setAccumulator_ramCursor (k : Sel) (v : Word) (s : State) : (setAccumulator k v s).ramCursor = s.ramCursor := rfl
@[simp] theorem setAccumulator_pcAddress (k : Sel) (v : Word) (s : State) : (setAccumulator k v s).pcAddress = s.pcAddress := rfl
@[simp] theorem setAccumulator_pendingJump (k : Sel) (v : Word) (s : State) : (setAccumulator k v s).pendingJump = s.pendingJump := rfl
@[simp] theorem setAccumulator_inputSlots (k : Sel) (v : Word) (s : State) : (setAccumulator k v s).inputSlots = s.inputSlots := rfl
@[simp] theorem setAccumulator_inputCursor (k : Sel) (v : Word) (s : State) : (setAccumulator k v s).inputCursor = s.inputCursor := rfl
@[simp] theorem setAccumulator_pendingKey (k : Sel) (v : Word) (s : State) : (setAccumulator k v s).pendingKey = s.pendingKey := rfl
@[simp] theorem setAccumulator_status (k : Sel) (v : Word) (s : State) : (setAccumulator k v s).status = s.status := rfl
@[simp] theorem setAccumulator_prog (k : Sel) (v : Word) (s : State) : (setAccumulator k v s).prog = s.prog := rfl
@[simp] theorem setAccumulator_params (k : Sel) (v : Word) (s : State) : (setAccumulator k v s).params = s.params := rfl
@[simp] theorem setAccumulator_handoffs (k : Sel) (v : Word) (s : State) : (setAccumulator k v s).handoffs = s.handoffs := rfl
@[simp] theorem setAccumulator_draws (k : Sel) (v : Word) (s : State) : (setAccumulator k v s).draws = s.draws := rfl
@[simp] theorem setAccumulator_drawCount (k : Sel) (v : Word) (s : State) : (setAccumulator k v s).drawCount = s.drawCount := rfl

/-! `setInputCursor` -/

@[simp] theorem setInputCursor_ram (j : SlotIndex) (s : State) : (setInputCursor j s).ram = s.ram := rfl
@[simp] theorem setInputCursor_ramCursor (j : SlotIndex) (s : State) : (setInputCursor j s).ramCursor = s.ramCursor := rfl
@[simp] theorem setInputCursor_alus (j : SlotIndex) (s : State) : (setInputCursor j s).alus = s.alus := rfl
@[simp] theorem setInputCursor_pcAddress (j : SlotIndex) (s : State) : (setInputCursor j s).pcAddress = s.pcAddress := rfl
@[simp] theorem setInputCursor_pendingJump (j : SlotIndex) (s : State) : (setInputCursor j s).pendingJump = s.pendingJump := rfl
@[simp] theorem setInputCursor_inputSlots (j : SlotIndex) (s : State) : (setInputCursor j s).inputSlots = s.inputSlots := rfl
@[simp] theorem setInputCursor_inputCursor (j : SlotIndex) (s : State) : (setInputCursor j s).inputCursor = j := rfl
@[simp] theorem setInputCursor_pendingKey (j : SlotIndex) (s : State) : (setInputCursor j s).pendingKey = s.pendingKey := rfl
@[simp] theorem setInputCursor_status (j : SlotIndex) (s : State) : (setInputCursor j s).status = s.status := rfl
@[simp] theorem setInputCursor_prog (j : SlotIndex) (s : State) : (setInputCursor j s).prog = s.prog := rfl
@[simp] theorem setInputCursor_params (j : SlotIndex) (s : State) : (setInputCursor j s).params = s.params := rfl
@[simp] theorem setInputCursor_handoffs (j : SlotIndex) (s : State) : (setInputCursor j s).handoffs = s.handoffs := rfl
@[simp] theorem setInputCursor_draws (j : SlotIndex) (s : State) : (setInputCursor j s).draws = s.draws := rfl
@[simp] theorem setInputCursor_drawCount (j : SlotIndex) (s : State) : (setInputCursor j s).drawCount = s.drawCount := rfl

/-! `writeSlotAtCurrent` -/

@[simp] theorem writeSlotAtCurrent_ram (v : Word) (s : State) : (writeSlotAtCurrent v s).ram = s.ram := rfl
@[simp] theorem writeSlotAtCurrent_ramCursor (v : Word) (s : State) : (writeSlotAtCurrent v s).ramCursor = s.ramCursor := rfl
@[simp] theorem writeSlotAtCurrent_alus (v : Word) (s : State) : (writeSlotAtCurrent v s).alus = s.alus := rfl
@[simp] theorem writeSlotAtCurrent_pcAddress (v : Word) (s : State) : (writeSlotAtCurrent v s).pcAddress = s.pcAddress := rfl
@[simp] theorem writeSlotAtCurrent_pendingJump (v : Word) (s : State) : (writeSlotAtCurrent v s).pendingJump = s.pendingJump := rfl
@[simp] theorem writeSlotAtCurrent_inputSlots (v : Word) (s : State) : (writeSlotAtCurrent v s).inputSlots = s.inputSlots.set s.inputCursor.toNat v s.inputCursor.isLt := rfl
@[simp] theorem writeSlotAtCurrent_inputCursor (v : Word) (s : State) : (writeSlotAtCurrent v s).inputCursor = s.inputCursor := rfl
@[simp] theorem writeSlotAtCurrent_pendingKey (v : Word) (s : State) : (writeSlotAtCurrent v s).pendingKey = s.pendingKey := rfl
@[simp] theorem writeSlotAtCurrent_status (v : Word) (s : State) : (writeSlotAtCurrent v s).status = s.status := rfl
@[simp] theorem writeSlotAtCurrent_prog (v : Word) (s : State) : (writeSlotAtCurrent v s).prog = s.prog := rfl
@[simp] theorem writeSlotAtCurrent_params (v : Word) (s : State) : (writeSlotAtCurrent v s).params = s.params := rfl
@[simp] theorem writeSlotAtCurrent_handoffs (v : Word) (s : State) : (writeSlotAtCurrent v s).handoffs = s.handoffs := rfl
@[simp] theorem writeSlotAtCurrent_draws (v : Word) (s : State) : (writeSlotAtCurrent v s).draws = s.draws := rfl
@[simp] theorem writeSlotAtCurrent_drawCount (v : Word) (s : State) : (writeSlotAtCurrent v s).drawCount = s.drawCount := rfl

/-! `clearPending` -/

@[simp] theorem clearPending_ram (s : State) : (clearPending s).ram = s.ram := rfl
@[simp] theorem clearPending_ramCursor (s : State) : (clearPending s).ramCursor = s.ramCursor := rfl
@[simp] theorem clearPending_alus (s : State) : (clearPending s).alus = s.alus := rfl
@[simp] theorem clearPending_pcAddress (s : State) : (clearPending s).pcAddress = s.pcAddress := rfl
@[simp] theorem clearPending_pendingJump (s : State) : (clearPending s).pendingJump = s.pendingJump := rfl
@[simp] theorem clearPending_inputSlots (s : State) : (clearPending s).inputSlots = s.inputSlots := rfl
@[simp] theorem clearPending_inputCursor (s : State) : (clearPending s).inputCursor = s.inputCursor := rfl
@[simp] theorem clearPending_pendingKey (s : State) : (clearPending s).pendingKey = none := rfl
@[simp] theorem clearPending_status (s : State) : (clearPending s).status = s.status := rfl
@[simp] theorem clearPending_prog (s : State) : (clearPending s).prog = s.prog := rfl
@[simp] theorem clearPending_params (s : State) : (clearPending s).params = s.params := rfl
@[simp] theorem clearPending_handoffs (s : State) : (clearPending s).handoffs = s.handoffs := rfl
@[simp] theorem clearPending_draws (s : State) : (clearPending s).draws = s.draws := rfl
@[simp] theorem clearPending_drawCount (s : State) : (clearPending s).drawCount = s.drawCount := rfl

/-! `setPendingFromKey` -/

@[simp] theorem setPendingFromKey_ram (j : SlotIndex) (s : State) : (setPendingFromKey j s).ram = s.ram := rfl
@[simp] theorem setPendingFromKey_ramCursor (j : SlotIndex) (s : State) : (setPendingFromKey j s).ramCursor = s.ramCursor := rfl
@[simp] theorem setPendingFromKey_alus (j : SlotIndex) (s : State) : (setPendingFromKey j s).alus = s.alus := rfl
@[simp] theorem setPendingFromKey_pcAddress (j : SlotIndex) (s : State) : (setPendingFromKey j s).pcAddress = s.pcAddress := rfl
@[simp] theorem setPendingFromKey_pendingJump (j : SlotIndex) (s : State) : (setPendingFromKey j s).pendingJump = s.pendingJump := rfl
@[simp] theorem setPendingFromKey_inputSlots (j : SlotIndex) (s : State) : (setPendingFromKey j s).inputSlots = s.inputSlots := rfl
@[simp] theorem setPendingFromKey_inputCursor (j : SlotIndex) (s : State) : (setPendingFromKey j s).inputCursor = s.inputCursor := rfl
@[simp] theorem setPendingFromKey_status (j : SlotIndex) (s : State) : (setPendingFromKey j s).status = s.status := rfl
@[simp] theorem setPendingFromKey_prog (j : SlotIndex) (s : State) : (setPendingFromKey j s).prog = s.prog := rfl
@[simp] theorem setPendingFromKey_params (j : SlotIndex) (s : State) : (setPendingFromKey j s).params = s.params := rfl
@[simp] theorem setPendingFromKey_handoffs (j : SlotIndex) (s : State) : (setPendingFromKey j s).handoffs = s.handoffs := rfl
@[simp] theorem setPendingFromKey_draws (j : SlotIndex) (s : State) : (setPendingFromKey j s).draws = s.draws := rfl
@[simp] theorem setPendingFromKey_drawCount (j : SlotIndex) (s : State) : (setPendingFromKey j s).drawCount = s.drawCount := rfl

/-! `dropDraw` -/

@[simp] theorem dropDraw_ram (s : State) : (dropDraw s).ram = s.ram := rfl
@[simp] theorem dropDraw_ramCursor (s : State) : (dropDraw s).ramCursor = s.ramCursor := rfl
@[simp] theorem dropDraw_alus (s : State) : (dropDraw s).alus = s.alus := rfl
@[simp] theorem dropDraw_pcAddress (s : State) : (dropDraw s).pcAddress = s.pcAddress := rfl
@[simp] theorem dropDraw_pendingJump (s : State) : (dropDraw s).pendingJump = s.pendingJump := rfl
@[simp] theorem dropDraw_inputSlots (s : State) : (dropDraw s).inputSlots = s.inputSlots := rfl
@[simp] theorem dropDraw_inputCursor (s : State) : (dropDraw s).inputCursor = s.inputCursor := rfl
@[simp] theorem dropDraw_pendingKey (s : State) : (dropDraw s).pendingKey = s.pendingKey := rfl
@[simp] theorem dropDraw_status (s : State) : (dropDraw s).status = s.status := rfl
@[simp] theorem dropDraw_prog (s : State) : (dropDraw s).prog = s.prog := rfl
@[simp] theorem dropDraw_params (s : State) : (dropDraw s).params = s.params := rfl
@[simp] theorem dropDraw_handoffs (s : State) : (dropDraw s).handoffs = s.handoffs := rfl
@[simp] theorem dropDraw_draws (s : State) : (dropDraw s).draws = s.draws.tail := rfl
@[simp] theorem dropDraw_drawCount (s : State) : (dropDraw s).drawCount = s.drawCount + 1 := rfl

/-! `jump` -/

@[simp] theorem jump_ram (v : Word) (s : State) : (jump v s).ram = s.ram := rfl
@[simp] theorem jump_ramCursor (v : Word) (s : State) : (jump v s).ramCursor = s.ramCursor := rfl
@[simp] theorem jump_alus (v : Word) (s : State) : (jump v s).alus = s.alus := rfl
@[simp] theorem jump_pcAddress (v : Word) (s : State) : (jump v s).pcAddress = s.pcAddress := rfl
@[simp] theorem jump_pendingJump (v : Word) (s : State) : (jump v s).pendingJump = some (branchTarget s.params.branchTargetMode v) := rfl
@[simp] theorem jump_inputSlots (v : Word) (s : State) : (jump v s).inputSlots = s.inputSlots := rfl
@[simp] theorem jump_inputCursor (v : Word) (s : State) : (jump v s).inputCursor = s.inputCursor := rfl
@[simp] theorem jump_pendingKey (v : Word) (s : State) : (jump v s).pendingKey = s.pendingKey := rfl
@[simp] theorem jump_status (v : Word) (s : State) : (jump v s).status = s.status := rfl
@[simp] theorem jump_prog (v : Word) (s : State) : (jump v s).prog = s.prog := rfl
@[simp] theorem jump_params (v : Word) (s : State) : (jump v s).params = s.params := rfl
@[simp] theorem jump_handoffs (v : Word) (s : State) : (jump v s).handoffs = s.handoffs := rfl
@[simp] theorem jump_draws (v : Word) (s : State) : (jump v s).draws = s.draws := rfl
@[simp] theorem jump_drawCount (v : Word) (s : State) : (jump v s).drawCount = s.drawCount := rfl

/-! `advance` -/

@[simp] theorem advance_ram (s : State) : (advance s).ram = s.ram := rfl
@[simp] theorem advance_ramCursor (s : State) : (advance s).ramCursor = s.ramCursor := rfl
@[simp] theorem advance_alus (s : State) : (advance s).alus = s.alus := rfl
@[simp] theorem advance_pendingJump (s : State) : (advance s).pendingJump = none := rfl
@[simp] theorem advance_inputSlots (s : State) : (advance s).inputSlots = s.inputSlots := rfl
@[simp] theorem advance_inputCursor (s : State) : (advance s).inputCursor = s.inputCursor := rfl
@[simp] theorem advance_pendingKey (s : State) : (advance s).pendingKey = s.pendingKey := rfl
@[simp] theorem advance_status (s : State) : (advance s).status = s.status := rfl
@[simp] theorem advance_prog (s : State) : (advance s).prog = s.prog := rfl
@[simp] theorem advance_params (s : State) : (advance s).params = s.params := rfl
@[simp] theorem advance_handoffs (s : State) : (advance s).handoffs = s.handoffs := rfl
@[simp] theorem advance_draws (s : State) : (advance s).draws = s.draws := rfl
@[simp] theorem advance_drawCount (s : State) : (advance s).drawCount = s.drawCount := rfl

/-! `halt` -/

@[simp] theorem halt_ram (st : Status) (s : State) : (halt st s).ram = s.ram := rfl
@[simp] theorem halt_ramCursor (st : Status) (s : State) : (halt st s).ramCursor = s.ramCursor := rfl
@[simp] theorem halt_alus (st : Status) (s : State) : (halt st s).alus = s.alus := rfl
@[simp] theorem halt_pcAddress (st : Status) (s : State) : (halt st s).pcAddress = s.pcAddress := rfl
@[simp] theorem halt_pendingJump (st : Status) (s : State) : (halt st s).pendingJump = s.pendingJump := rfl
@[simp] theorem halt_inputSlots (st : Status) (s : State) : (halt st s).inputSlots = s.inputSlots := rfl
@[simp] theorem halt_inputCursor (st : Status) (s : State) : (halt st s).inputCursor = s.inputCursor := rfl
@[simp] theorem halt_pendingKey (st : Status) (s : State) : (halt st s).pendingKey = s.pendingKey := rfl
@[simp] theorem halt_status (st : Status) (s : State) : (halt st s).status = st := rfl
@[simp] theorem halt_prog (st : Status) (s : State) : (halt st s).prog = s.prog := rfl
@[simp] theorem halt_params (st : Status) (s : State) : (halt st s).params = s.params := rfl
@[simp] theorem halt_handoffs (st : Status) (s : State) : (halt st s).handoffs = s.handoffs := rfl
@[simp] theorem halt_draws (st : Status) (s : State) : (halt st s).draws = s.draws := rfl
@[simp] theorem halt_drawCount (st : Status) (s : State) : (halt st s).drawCount = s.drawCount := rfl

/-! What the remaining fields become -/

theorem setPendingFromKey_pendingKey (j : SlotIndex) (s : State) :
    (setPendingFromKey j s).pendingKey = s.pendingKey.or (some j) := by
  cases h : s.pendingKey <;> simp [setPendingFromKey, h]

theorem advance_pcAddress_of_none (s : State) (h : s.pendingJump = none) :
    (advance s).pcAddress = s.pcAddress.next := by
  simp [advance, h]

theorem advance_pcAddress_of_some (s : State) (t : ProgAddr) (h : s.pendingJump = some t) :
    (advance s).pcAddress = t := by
  simp [advance, h]

end Sys2Proof.Machine
end

