-- ==== Sys2Proof/Laws/Addresses.lean ====
section
/-! SUPPORT. Truncation of a natural number, and the program addresses that the model computes against the ones that
claims name. -/

namespace Sys2Proof.Machine

theorem trunc_natCast (n v : Nat) : trunc n (v : Int) = BitVec.ofNat n v := by simp [trunc]

theorem trunc_toNat_eq_setWidth (n : Nat) {m : Nat} (v : BitVec m) : trunc n (v.toNat : Int) = v.setWidth n := by
  rw [trunc_natCast]
  exact BitVec.eq_of_toNat_eq (by simp)

theorem ProgAddr.next_eq_nextSlot (a : ProgAddr) : a.next = nextSlot a :=
  congrArg ProgAddr.slot (trunc_natCast 6 (a.toNat + 1))

/-- A step boundary's state advances to the next slot. -/
theorem advance_to_nextSlot (s : State) (h : s.pendingJump = none) : (advance s).pcAddress = nextSlot s.pcAddress := by
  rw [advance_pcAddress_of_none s h, ProgAddr.next_eq_nextSlot]

theorem jumpedTo_branchTarget (m : BranchTargetMode) (v : Word) : JumpedTo m v (branchTarget m v) := by
  cases m with
  | wrap64 => simp [JumpedTo, branchTarget, trunc_toNat_eq_setWidth]
  | overrun =>
    simp only [JumpedTo, branchTarget, trunc_toNat_eq_setWidth]
    exact ⟨fun h => if_pos h, fun h => if_neg (by omega)⟩

theorem legal_branchTarget (m : BranchTargetMode) (v : Word) : (branchTarget m v).legal m = true := by
  cases m with
  | wrap64 => rfl
  | overrun =>
    simp only [branchTarget]
    split
    · rfl
    · simp [ProgAddr.legal]; omega

end Sys2Proof.Machine
end

