-- ==== Sys2Proof/Laws/Encoding.lean ====
section
/-! SUPPORT. The three fields of an assembled word (spec/30_encoding.md R98), the rows of the opcode table (R96) and
the opcode numbers (R101). -/

namespace Sys2Proof

theorem opcField_append (id : OpcodeId) (v : Word) (k : Sel) : opcField (id ++ v ++ k) = id := by
  ext n hn
  have h : ¬ 18 + n < 2 := by omega
  have h' : ¬ 18 + n - 2 < 16 := by omega
  have e : 18 + n - 2 - 16 = n := by omega
  simp only [opcField, BitVec.getElem_extractLsb', BitVec.getLsbD_append, h, h', e]
  simp [BitVec.getLsbD_eq_getElem hn]

theorem immField_append (id : OpcodeId) (v : Word) (k : Sel) : immField (id ++ v ++ k) = v := by
  ext n hn
  have h : ¬ 2 + n < 2 := by omega
  have e : 2 + n - 2 = n := by omega
  simp only [immField, BitVec.getElem_extractLsb', BitVec.getLsbD_append, h, hn, e]
  simp [hn]

theorem selField_append (id : OpcodeId) (v : Word) (k : Sel) : selField (id ++ v ++ k) = k := by
  ext n hn
  simp only [selField, BitVec.getElem_extractLsb', BitVec.getLsbD_append, Nat.zero_add, hn]
  simp [hn]

/-! ### Rows of the opcode table -/

/-- A claim about every row holds if it holds for the 32 rows by name. -/
theorem row_cases {P : OpcodeId → Prop} (h : ∀ n : Fin 32, P (BitVec.ofFin n)) (n : OpcodeId) : P n := h n.toFin

@[simp] theorem rowOf_instrOfRow (n : OpcodeId) (v : Option Word) (k : Option Sel) :
    rowOf (instrOfRow n v k) = n := by
  revert n
  refine row_cases (fun n => ?_)
  fin_cases n <;> rfl

@[simp] theorem fields_instrOfRow (n : OpcodeId) (v : Option Word) (k : Option Sel) :
    (instrOfRow n v k).fields = (v, k) := by
  revert n
  refine row_cases (fun n => ?_)
  fin_cases n <;> rfl

@[simp] theorem operand_instrOfRow (n : OpcodeId) (v : Option Word) (k : Option Sel) :
    (instrOfRow n v k).operand = v := by rw [Instr.operand, fields_instrOfRow]

@[simp] theorem aluSelect_instrOfRow (n : OpcodeId) (v : Option Word) (k : Option Sel) :
    (instrOfRow n v k).aluSelect = k := by rw [Instr.aluSelect, fields_instrOfRow]

@[simp] theorem instrOfRow_rowOf (i : Instr) : instrOfRow (rowOf i) i.operand i.aluSelect = i := by cases i <;> rfl

/-- The reserved rows are the last three. -/
theorem isReserved_iff_rowOf (i : Instr) : i.isReserved = true ↔ 29 ≤ (rowOf i).toNat := by
  cases i <;> simp [Instr.isReserved, rowOf]

/-! ### Numberings -/

/-- The row of an ID is the first entry of the numbering that holds it. -/
theorem rowOfId_toNat (ids : OpcodeIds) (id : OpcodeId) : (rowOfId ids id).toNat = min 31 (ids.toList.idxOf id) := by
  rw [rowOfId, BitVec.toNat_ofNat, Nat.mod_eq_of_lt (by omega)]

/-- In a valid numbering a row's number belongs to that row. -/
theorem rowOfId_of_valid {ids : OpcodeIds} (h : validOpcodeIds ids = true) (n : OpcodeId) :
    rowOfId ids (ids[n.toNat]'n.isLt) = n := by
  have hn := n.isLt
  apply BitVec.eq_of_toNat_eq
  rw [rowOfId_toNat, ← Vector.getElem_toList (by simpa using hn),
    List.Nodup.idxOf_getElem (of_decide_eq_true h)]
  omega

/-- In a valid numbering every ID is the number of its row. -/
theorem getElem_rowOfId {ids : OpcodeIds} (h : validOpcodeIds ids = true) (id : OpcodeId) :
    ids[(rowOfId ids id).toNat]'(rowOfId ids id).isLt = id := by
  have hinj : Function.Injective (fun n : OpcodeId => ids[n.toNat]'n.isLt) :=
    Function.LeftInverse.injective (g := rowOfId ids) (rowOfId_of_valid h)
  obtain ⟨n, rfl⟩ := Finite.surjective_of_injective hinj id
  simp only [rowOfId_of_valid h]

theorem validOpcodeIds_default : validOpcodeIds Config.defaultOpcodeIds = true := by decide

/-- In the default numbering a row's number is the row. -/
@[simp] theorem opcodeId_eq_rowOf (i : Instr) : opcodeId i = rowOf i := by cases i <;> rfl

@[simp] theorem rowOfId_default (id : OpcodeId) : rowOfId Config.defaultOpcodeIds id = id := by
  revert id; decide

theorem decodeWord_eq (w : InstrWord) :
    decodeWord w = instrOfRow (opcField w) (some (immField w)) (some (selField w)) := by
  rw [decodeWord, decodeWordIn, rowOfId_default]

theorem encode_eq (i : Instr) : encode i = rowOf i ++ i.operand.getD 0 ++ i.aluSelect.getD 0 := by
  rw [← opcodeId_eq_rowOf]; rfl

/-- The fields of an assembled word, in any numbering (R98, R99). -/
theorem fields_encodeIn (ids : OpcodeIds) (i : Instr) :
    opcField (encodeIn ids i) = opcodeIdIn ids i ∧ immField (encodeIn ids i) = i.operand.getD 0 ∧
      selField (encodeIn ids i) = i.aluSelect.getD 0 :=
  ⟨opcField_append .., immField_append .., selField_append ..⟩

end Sys2Proof
end

