-- ==== Sys2Proof/Laws/Memory.lean ====
section
/-! SUPPORT. The laws of data memory: every operation keeps the canonical form, and equal readings of two canonical
memories make them equal data. -/

namespace Sys2Proof.Machine

theorem Memory.wfFrom_cons {lo a : Nat} {v : Word} {rest : Memory} :
    Memory.wfFrom lo ((a, v) :: rest) = true ↔
      lo ≤ a ∧ a < 32 ∧ v ≠ Memory.unlisted a ∧ Memory.wfFrom (a + 1) rest = true := by
  simp [Memory.wfFrom, and_assoc]

theorem Memory.wfFrom_mono {lo lo' : Nat} {m : Memory} (h : lo' ≤ lo) (hm : Memory.wfFrom lo m = true) :
    Memory.wfFrom lo' m = true := by
  cases m with
  | nil => rfl
  | cons p rest =>
    obtain ⟨a, v⟩ := p
    rw [Memory.wfFrom_cons] at hm ⊢
    exact ⟨h.trans hm.1, hm.2⟩

theorem Memory.wf_of_wfFrom {lo : Nat} {m : Memory} (hm : Memory.wfFrom lo m = true) : m.wf = true :=
  Memory.wfFrom_mono (Nat.zero_le lo) hm

/-- Below its first address a canonical memory reads as an unlisted one. -/
theorem Memory.read_below {lo a : Nat} {m : Memory} (hm : Memory.wfFrom lo m = true) (h : a < lo) :
    m.read a = Memory.unlisted a := by
  induction m generalizing lo with
  | nil => rfl
  | cons p rest ih =>
    obtain ⟨b, v⟩ := p
    rw [Memory.wfFrom_cons] at hm
    have hb : a ≠ b := by omega
    simp only [Memory.read, hb, if_false]
    exact ih hm.2.2.2 (by omega)

/-- Where no cell exists a canonical memory reads as an unlisted one. -/
theorem Memory.read_outside {lo a : Nat} {m : Memory} (hm : Memory.wfFrom lo m = true) (h : 32 ≤ a) :
    m.read a = Memory.unlisted a := by
  induction m generalizing lo with
  | nil => rfl
  | cons p rest ih =>
    obtain ⟨b, v⟩ := p
    rw [Memory.wfFrom_cons] at hm
    have hb : a ≠ b := by omega
    simp only [Memory.read, hb, if_false]
    exact ih hm.2.2.2

theorem Memory.wfFrom_consOp {lo a : Nat} {v : Word} {rest : Memory} (ha : lo ≤ a) (h32 : a < 32)
    (h : Memory.wfFrom (a + 1) rest = true) : Memory.wfFrom lo (Memory.cons a v rest) = true := by
  unfold Memory.cons
  split
  · exact Memory.wfFrom_mono (by omega) h
  · rename_i hv
    exact Memory.wfFrom_cons.2 ⟨ha, h32, hv, h⟩

/-- A write at an address of the data memory keeps the canonical form. -/
theorem Memory.wfFrom_write {lo a : Nat} {m : Memory} (v : Word) (hm : Memory.wfFrom lo m = true)
    (ha : lo ≤ a) (h32 : a < 32) : Memory.wfFrom lo (m.write a v) = true := by
  induction m generalizing lo with
  | nil => exact Memory.wfFrom_consOp ha h32 rfl
  | cons p rest ih =>
    obtain ⟨b, w⟩ := p
    have hm' := Memory.wfFrom_cons.1 hm
    unfold Memory.write
    split
    · rename_i hab
      exact Memory.wfFrom_consOp ha h32
        (Memory.wfFrom_cons.2 ⟨by omega, hm'.2.1, hm'.2.2.1, hm'.2.2.2⟩)
    · split
      · rename_i hab heq
        subst heq
        exact Memory.wfFrom_consOp ha h32 hm'.2.2.2
      · rename_i hlt hne
        exact Memory.wfFrom_cons.2
          ⟨hm'.1, hm'.2.1, hm'.2.2.1, ih hm'.2.2.2 (by omega)⟩

theorem Memory.wf_write {m : Memory} (hm : m.wf = true) {a : Nat} (h32 : a < 32) (v : Word) :
    (m.write a v).wf = true :=
  Memory.wfFrom_write v hm (Nat.zero_le a) h32

theorem Memory.wf_zeroBelow {m : Memory} (hm : m.wf = true) {n : Nat} (hn : n ≤ 32) :
    (Memory.zeroBelow n m).wf = true := by
  induction n with
  | zero => exact hm
  | succ n ih => exact Memory.wf_write (ih (by omega)) (by omega) 0

theorem Memory.wf_writeFrom {vs : List Word} {a : Nat} {m : Memory} (hm : m.wf = true)
    (h : a + vs.length ≤ 32) : (Memory.writeFrom vs a m).wf = true := by
  induction vs generalizing a m with
  | nil => exact hm
  | cons v vs ih =>
    simp only [List.length_cons] at h
    exact ih (Memory.wf_write hm (by omega) v) (by omega)

/-- Reset's memory has the canonical form. -/
theorem Memory.wf_reset : State.reset.ram.wf = true := rfl

theorem Memory.wf_resetWith (rv : ResetValues) (s : State) : (resetWith rv s).ram.wf = true :=
  Memory.wf_writeFrom rfl (by simp)

/-- Two canonical memories that read alike are equal data. -/
theorem Memory.ext_of_read {lo : Nat} {m n : Memory} (hm : Memory.wfFrom lo m = true)
    (hn : Memory.wfFrom lo n = true) (h : ∀ a, m.read a = n.read a) : m = n := by
  induction m generalizing lo n with
  | nil =>
    cases n with
    | nil => rfl
    | cons q rest =>
      obtain ⟨b, w⟩ := q
      have hb := h b
      simp only [Memory.read, if_true] at hb
      exact absurd hb.symm (Memory.wfFrom_cons.1 hn).2.2.1
  | cons p mr ih =>
    obtain ⟨a, v⟩ := p
    have hm' := Memory.wfFrom_cons.1 hm
    cases n with
    | nil =>
      have ha := h a
      simp only [Memory.read, if_true] at ha
      exact absurd ha hm'.2.2.1
    | cons q nr =>
      obtain ⟨b, w⟩ := q
      have hn' := Memory.wfFrom_cons.1 hn
      have hab : a = b := by
        rcases Nat.lt_trichotomy a b with hlt | heq | hgt
        · have ha := h a
          rw [Memory.read_below (lo := b) (Memory.wfFrom_cons.2 ⟨le_refl b, hn'.2⟩) hlt] at ha
          simp only [Memory.read, if_true] at ha
          exact absurd ha hm'.2.2.1
        · exact heq
        · have hb := h b
          rw [Memory.read_below (lo := a) (Memory.wfFrom_cons.2 ⟨le_refl a, hm'.2⟩) hgt] at hb
          simp only [Memory.read, if_true] at hb
          exact absurd hb.symm hn'.2.2.1
      subst hab
      have hvw : v = w := by simpa [Memory.read] using h a
      subst hvw
      have hrest : mr = nr := by
        refine ih hm'.2.2.2 hn'.2.2.2 (fun c => ?_)
        by_cases hc : c = a
        · subst hc
          rw [Memory.read_below hm'.2.2.2 (by omega), Memory.read_below hn'.2.2.2 (by omega)]
        · simpa [Memory.read, hc] using h c
      rw [hrest]

end Sys2Proof.Machine
end

