-- ==== Sys2Proof/Laws/Ops.lean ====
section
/-! SUPPORT. For each shared operation, what it can answer, so that a proof cites this and does not unfold it. -/

namespace Sys2Proof.Machine

theorem withSel_next {k : Option Sel} {f : Sel → Result} {t : State} (h : withSel k f = .next t) :
    ∃ k', k = some k' ∧ f k' = .next t := by
  cases k with
  | none => simp [withSel, raiseContractViolation] at h
  | some k' => exact ⟨k', rfl, h⟩

theorem withOperand_next {v : Option Word} {f : Word → Result} {t : State} (h : withOperand v f = .next t) :
    ∃ v', v = some v' ∧ f v' = .next t := by
  cases v with
  | none => simp [withOperand, raiseContractViolation] at h
  | some v' => exact ⟨v', rfl, h⟩

theorem withBoth_next {v : Option Word} {k : Option Sel} {f : Word → Sel → Result} {t : State}
    (h : withBoth v k f = .next t) : ∃ v' k', v = some v' ∧ k = some k' ∧ f v' k' = .next t := by
  obtain ⟨k', hk, h⟩ := withSel_next h
  obtain ⟨v', hv, h⟩ := withOperand_next h
  exact ⟨v', k', hv, hk, h⟩

theorem complete_next {s t : State} : complete s = .next t ↔ t = advance s := by
  simp [complete, eq_comm]

theorem branchIf_next {taken : Bool} {v : Word} {s t : State} (h : branchIf taken v s = .next t) :
    t = advance (if taken then jump v s else s) := complete_next.1 h

theorem compute_next {f : Alu → Word} {k : Option Sel} {s t : State} (h : compute f k s = .next t) :
    ∃ k', k = some k' ∧ t = advance (setAccumulator k' (f (s.alu k')) s) := by
  obtain ⟨k', hk, h⟩ := withSel_next h
  exact ⟨k', hk, complete_next.1 h⟩

theorem execReserved_next {id : OpcodeId} {s t : State} (h : execReserved id s = .next t) :
    s.params.reservedOpcodeMode = .nop ∧ t = advance s := by
  cases hm : s.params.reservedOpcodeMode with
  | refuse => simp [execReserved, hm] at h
  | nop => exact ⟨rfl, by simpa [execReserved, hm, complete, eq_comm] using h⟩

/-- Everything that can follow an instruction which answers a next state. -/
theorem afterInstr_next {r : Result} {t : State} (h : afterInstr r = .next t) :
    ∃ u, r = .next u ∧ ((u.status = .running ∧ t = handoff u) ∨ (u.status ≠ .running ∧ t = u)) := by
  cases r with
  | fault f => simp [afterInstr] at h
  | refused f => simp [afterInstr] at h
  | next u =>
    refine ⟨u, rfl, ?_⟩
    cases hu : u.status with
    | running => exact .inl ⟨rfl, by simpa [afterInstr, hu, eq_comm] using h⟩
    | _ => exact .inr ⟨by simp, by simpa [afterInstr, hu, eq_comm] using h⟩

/-- Everything that a step which answers a next state can have done. -/
theorem step_next {s t : State} (h : step s = .next t) :
    (s.status ≠ .running ∧ t = s) ∨
    (s.status = .running ∧ fetch s = none ∧ t = halt .haltedOverrun s) ∨
    ∃ i u, s.status = .running ∧ fetch s = some i ∧ exec i s = .next u ∧
      ((u.status = .running ∧ t = handoff u) ∨ (u.status ≠ .running ∧ t = u)) := by
  cases hs : s.status with
  | running =>
    right
    cases hf : fetch s with
    | none => left; refine ⟨rfl, rfl, ?_⟩; simpa [step, hs, hf, eq_comm] using h
    | some i =>
      right
      simp only [step, hs, hf] at h
      obtain ⟨u, hu, hc⟩ := afterInstr_next h
      exact ⟨i, u, rfl, rfl, hu, hc⟩
  | _ => left; refine ⟨by simp, ?_⟩; simpa [step, hs, eq_comm] using h

/-- Everything that a handoff can do. -/
theorem handoff_cases (s : State) :
    (s.handoffs = [] ∧ handoff s = s) ∨
    ∃ h hs, s.handoffs = h :: hs ∧
      handoff s = { s with
        handoffs := hs
        pendingKey := s.pendingKey.or h.key
        status := if h.stop then .stopped else s.status } := by
  cases hh : s.handoffs with
  | nil => left; simp [handoff, hh]
  | cons h hs =>
    right
    refine ⟨h, hs, rfl, ?_⟩
    obtain ⟨key, stop⟩ := h
    cases key <;> cases stop <;> cases hp : s.pendingKey <;>
      simp [handoff, hh, offerKey, offerStop, setPendingFromKey, halt, hp]

end Sys2Proof.Machine
end

