-- ==== Sys2Proof/Laws/Exec.lean ====
section
/-! SUPPORT. What every instruction keeps: said once, so that no later proof goes through the arms again for it. -/

namespace Sys2Proof.Machine

/-- What an instruction's arm keeps before its `advance()`. -/
structure ArmKeeps (s u : State) : Prop where
  pcAddress : u.pcAddress = s.pcAddress
  status : u.status = s.status
  prog : u.prog = s.prog
  params : u.params = s.params
  handoffs : u.handoffs = s.handoffs
  memoryForm : s.ram.wf = true → u.ram.wf = true
  pendingJump : u.pendingJump = s.pendingJump ∨
    ∃ v, u.pendingJump = some (branchTarget s.params.branchTargetMode v)

theorem armKeeps_refl (s : State) : ArmKeeps s s := ⟨rfl, rfl, rfl, rfl, rfl, id, .inl rfl⟩

theorem armKeeps_branch (taken : Bool) (v : Word) (s : State) : ArmKeeps s (if taken then jump v s else s) := by
  cases taken
  · exact armKeeps_refl s
  · exact ⟨rfl, rfl, rfl, rfl, rfl, id, .inr ⟨v, rfl⟩⟩

theorem armKeeps_writeAtCurrent (v : Word) {s u : State} (h : ArmKeeps s u) : ArmKeeps s (writeAtCurrent v u) :=
  { h with memoryForm := fun hw => Memory.wf_write (h.memoryForm hw) u.ramCursor.isLt v }

theorem armKeeps_resetScreenRegion (s : State) : ArmKeeps s (resetScreenRegion s) where
  pcAddress := resetScreenRegion_pcAddress s
  status := resetScreenRegion_status s
  prog := resetScreenRegion_prog s
  params := resetScreenRegion_params s
  handoffs := resetScreenRegion_handoffs s
  memoryForm hw := by rw [resetScreenRegion_ram]; exact Memory.wf_zeroBelow hw (by omega)
  pendingJump := .inl (resetScreenRegion_pendingJump s)

/-- Everything that an instruction which answers a next state has in common with every other: an `HLT` halts, and any
other instruction ends in `advance()` on a state that keeps what an arm keeps. -/
theorem exec_next {i : Instr} {s t : State} (h : exec i s = .next t) :
    (isHlt i = true ∧ t = halt .haltedHlt s) ∨ (isHlt i = false ∧ ∃ u, t = advance u ∧ ArmKeeps s u) := by
  have keep : ∀ u : State, u.pcAddress = s.pcAddress ∧ u.status = s.status ∧ u.prog = s.prog ∧
      u.params = s.params ∧ u.handoffs = s.handoffs ∧ u.ram = s.ram ∧ u.pendingJump = s.pendingJump →
      ArmKeeps s u := fun u ⟨h1, h2, h3, h4, h5, h6, h7⟩ => ⟨h1, h2, h3, h4, h5, fun hw => h6 ▸ hw, .inl h7⟩
  cases i with
  | hlt v k => exact .inl ⟨rfl, by simpa [exec, execHlt, eq_comm] using h⟩
  | nop v k => exact .inr ⟨rfl, s, complete_next.1 h, armKeeps_refl s⟩
  | bra v k | bri v k =>
    obtain ⟨v', -, h⟩ := withOperand_next h
    exact .inr ⟨rfl, _, branchIf_next h, armKeeps_branch _ _ _⟩
  | brm v k | bre v k | brl v k =>
    obtain ⟨v', k', -, -, h⟩ := withBoth_next h
    exact .inr ⟨rfl, _, branchIf_next h, armKeeps_branch _ _ _⟩
  | rav v k | ria v k | riv v k =>
    obtain ⟨v', -, h⟩ := withOperand_next h
    exact .inr ⟨rfl, _, complete_next.1 h, keep _ ⟨rfl, rfl, rfl, rfl, rfl, rfl, rfl⟩⟩
  | stv v k | rnr v k =>
    obtain ⟨v', -, h⟩ := withOperand_next h
    exact .inr ⟨rfl, _, complete_next.1 h,
      armKeeps_writeAtCurrent _ (keep _ ⟨rfl, rfl, rfl, rfl, rfl, rfl, rfl⟩)⟩
  | sta v k =>
    obtain ⟨k', -, h⟩ := withSel_next h
    exact .inr ⟨rfl, _, complete_next.1 h, armKeeps_writeAtCurrent _ (armKeeps_refl s)⟩
  | sir v k =>
    exact .inr ⟨rfl, _, complete_next.1 h,
      armKeeps_writeAtCurrent _ (keep _ ⟨rfl, rfl, rfl, rfl, rfl, rfl, rfl⟩)⟩
  | raa v k | lra v k | lrb v k | laa v k | lab v k | sia v k | sib v k =>
    obtain ⟨k', -, h⟩ := withSel_next h
    exact .inr ⟨rfl, _, complete_next.1 h, keep _ ⟨rfl, rfl, rfl, rfl, rfl, rfl, rfl⟩⟩
  | lva v k | lvb v k =>
    obtain ⟨v', k', -, -, h⟩ := withBoth_next h
    exact .inr ⟨rfl, _, complete_next.1 h, keep _ ⟨rfl, rfl, rfl, rfl, rfl, rfl, rfl⟩⟩
  | add v k | sub v k | and v k | or v k | xor v k =>
    obtain ⟨k', -, h⟩ := compute_next h
    exact .inr ⟨rfl, _, h, keep _ ⟨rfl, rfl, rfl, rfl, rfl, rfl, rfl⟩⟩
  | csm v k => exact .inr ⟨rfl, _, complete_next.1 h, armKeeps_resetScreenRegion s⟩
  | reserved29 v k | reserved30 v k | reserved31 v k =>
    exact .inr ⟨rfl, s, (execReserved_next h).2, armKeeps_refl s⟩

/-- What a branch that answers a next state does: its arm is nothing, or `jump` with its operand. -/
theorem exec_branch_next {i : Instr} {s t : State} (h : exec i s = .next t) (hb : isBranch i = true) :
    ∃ u, t = advance u ∧ (u = s ∨ ∃ v, i.operand = some v ∧ u = jump v s) := by
  have arm : ∀ (taken : Bool) (v : Word), i.operand = some v → branchIf taken v s = .next t →
      ∃ u, t = advance u ∧ (u = s ∨ ∃ v, i.operand = some v ∧ u = jump v s) := by
    intro taken v hv h
    refine ⟨_, branchIf_next h, ?_⟩
    cases taken
    · exact .inl rfl
    · exact .inr ⟨v, hv, rfl⟩
  cases i <;> simp only [isBranch, Bool.false_eq_true] at hb
  case bra | bri =>
    obtain ⟨v, rfl, h⟩ := withOperand_next h
    exact arm _ v rfl h
  case brm | bre | brl =>
    obtain ⟨v, _, rfl, rfl, h⟩ := withBoth_next h
    exact arm _ v rfl h

end Sys2Proof.Machine
end

