-- ==== Sys2Proof/Laws/Registers.lean ====
section
/-! SUPPORT. Reads after writes of the ALU bank and of the input slots. -/

namespace Sys2Proof.Machine

theorem sel_toNat_inj {j k : Sel} : j.toNat = k.toNat ↔ j = k := BitVec.toNat_inj

theorem State.alu_congr {s t : State} (h : t.alus = s.alus) (k : Sel) : t.alu k = s.alu k := by
  simp [State.alu, h]

theorem State.inputSlot_congr {s t : State} (h : t.inputSlots = s.inputSlots) (j : SlotIndex) :
    t.inputSlot j = s.inputSlot j := by
  simp [State.inputSlot, h]

theorem alu_setAlu (s : State) (k j : Sel) (u : Alu) :
    (setAlu k u s).alu j = if j = k then u else s.alu j := by
  by_cases h : j = k
  · subst h; simp [State.alu]
  · have h' : k.toNat ≠ j.toNat := fun e => h (BitVec.eq_of_toNat_eq e.symm)
    simp [State.alu, h, h']

theorem alu_setRegisterA (s : State) (k j : Sel) (v : Word) :
    (setRegisterA k v s).alu j = if j = k then { s.alu k with a := v } else s.alu j := alu_setAlu ..

theorem alu_setRegisterB (s : State) (k j : Sel) (v : Word) :
    (setRegisterB k v s).alu j = if j = k then { s.alu k with b := v } else s.alu j := alu_setAlu ..

theorem alu_setAccumulator (s : State) (k j : Sel) (v : Word) :
    (setAccumulator k v s).alu j = if j = k then { s.alu k with acc := v } else s.alu j := alu_setAlu ..

theorem inputSlot_writeSlotAtCurrent (s : State) (v : Word) (j : SlotIndex) :
    (writeSlotAtCurrent v s).inputSlot j = if j = s.inputCursor then v else s.inputSlot j := by
  by_cases h : j = s.inputCursor
  · subst h; simp [State.inputSlot]
  · have h' : s.inputCursor.toNat ≠ j.toNat := fun e => h (BitVec.eq_of_toNat_eq e.symm)
    simp [State.inputSlot, h, h']

/-- Writing two different units in either order gives the same bank. -/
theorem setAlu_comm (s : State) {j k : Sel} (h : j ≠ k) (u w : Alu) :
    setAlu j u (setAlu k w s) = setAlu k w (setAlu j u s) := by
  have h' : k.toNat ≠ j.toNat := fun e => h (BitVec.eq_of_toNat_eq e.symm)
  simp only [setAlu]
  congr 1
  exact Vector.set_comm w u h'

end Sys2Proof.Machine
end

