-- ==== Sys2Proof/Laws/Frames.lean ====
section
/-! SUPPORT. How frames combine, and the frame of each update. -/

namespace Sys2Proof.Machine

theorem UnchangedBut.refl (ws : List Loc) (s : State) : UnchangedBut ws s s :=
  fun l _ => by cases l <;> rfl

theorem UnchangedBut.mono {ws ws' : List Loc} {s t : State} (h : UnchangedBut ws s t) (hw : ∀ l ∈ ws, l ∈ ws') :
    UnchangedBut ws' s t :=
  fun l hl => h l (fun x => hl (hw l x))

theorem UnchangedBut.append {ws ws' : List Loc} {s t u : State} (h : UnchangedBut ws s t)
    (h' : UnchangedBut ws' t u) : UnchangedBut (ws ++ ws') s u := by
  intro l hl
  simp only [List.mem_append, not_or] at hl
  have a := h l hl.1
  have b := h' l hl.2
  cases l <;> exact b.trans a

/-- At a step boundary no jump is pending, and `advance()` adds the program address alone to what is written. -/
theorem UnchangedBut.advance {ws : List Loc} {s u : State} (hs : s.pendingJump = none)
    (h : UnchangedBut ws s u) : UnchangedBut (.pcAddress :: ws) s (advance u) := by
  intro l hl
  simp only [List.mem_cons, not_or] at hl
  have := h l hl.2
  cases l <;> first | exact this | exact absurd rfl hl.1 | exact hs.symm

theorem setRamCursor_frame (a : RamAddr) (s : State) : UnchangedBut [.ramCursor] s (setRamCursor a s) :=
  fun l hl => by cases l <;> first | rfl | simp at hl

theorem setInputCursor_frame (j : SlotIndex) (s : State) : UnchangedBut [.inputCursor] s (setInputCursor j s) :=
  fun l hl => by cases l <;> first | rfl | simp at hl

theorem clearPending_frame (s : State) : UnchangedBut [.pendingKey] s (clearPending s) :=
  fun l hl => by cases l <;> first | rfl | simp at hl

theorem dropDraw_frame (s : State) : UnchangedBut [.draws, .drawCount] s (dropDraw s) :=
  fun l hl => by cases l <;> first | rfl | simp at hl

theorem jump_frame (v : Word) (s : State) : UnchangedBut [.pendingJump] s (jump v s) :=
  fun l hl => by cases l <;> first | rfl | simp at hl

theorem halt_frame (st : Status) (s : State) : UnchangedBut [.status] s (halt st s) :=
  fun l hl => by cases l <;> first | rfl | simp at hl

theorem setRegisterA_frame (k : Sel) (v : Word) (s : State) : UnchangedBut [.aluA k] s (setRegisterA k v s) := by
  intro l hl
  cases l <;> simp_all [Loc.Same, alu_setRegisterA, State.inputSlot] <;> split <;> simp_all

theorem setRegisterB_frame (k : Sel) (v : Word) (s : State) : UnchangedBut [.aluB k] s (setRegisterB k v s) := by
  intro l hl
  cases l <;> simp_all [Loc.Same, alu_setRegisterB, State.inputSlot] <;> split <;> simp_all

theorem setAccumulator_frame (k : Sel) (v : Word) (s : State) :
    UnchangedBut [.aluAcc k] s (setAccumulator k v s) := by
  intro l hl
  cases l <;> simp_all [Loc.Same, alu_setAccumulator, State.inputSlot] <;> split <;> simp_all

theorem writeSlotAtCurrent_frame (v : Word) (s : State) :
    UnchangedBut [.inputSlot s.inputCursor] s (writeSlotAtCurrent v s) := by
  intro l hl
  cases l <;> simp_all [Loc.Same, inputSlot_writeSlotAtCurrent, State.alu]

end Sys2Proof.Machine
end

