-- ==== Sys2Proof/Laws/PerInstr.lean ====
section
/-! SUPPORT. Statements about each instruction as syntax, one lemma for each constructor. -/

/-- The assembled word of a record carries its opcode number, its operand or 0, and its selector or 0, each in its own
field (spec/30_encoding.md R98, R99). -/
def Sys2Proof.Laws.EncodingFields.Statement (i : Sys2Proof.Instr) : Prop :=
  Sys2Proof.opcField (Sys2Proof.encode i) = Sys2Proof.opcodeId i ∧
  Sys2Proof.immField (Sys2Proof.encode i) = i.operand.getD 0 ∧
  Sys2Proof.selField (Sys2Proof.encode i) = i.aluSelect.getD 0

/-- The fields of any record's word: the constructors' lemmas cite it. -/
theorem Sys2Proof.Laws.EncodingFields.of_encode (i : Sys2Proof.Instr) :
    Sys2Proof.Laws.EncodingFields.Statement i :=
  ⟨Sys2Proof.opcField_append .., Sys2Proof.immField_append .., Sys2Proof.selField_append ..⟩

theorem Sys2Proof.Laws.EncodingFields.nop (v : Option Sys2Proof.Word) (k : Option Sys2Proof.Sel) :
    Sys2Proof.Laws.EncodingFields.Statement (.nop v k) := Sys2Proof.Laws.EncodingFields.of_encode _

theorem Sys2Proof.Laws.EncodingFields.bra (v : Option Sys2Proof.Word) (k : Option Sys2Proof.Sel) :
    Sys2Proof.Laws.EncodingFields.Statement (.bra v k) := Sys2Proof.Laws.EncodingFields.of_encode _

theorem Sys2Proof.Laws.EncodingFields.brm (v : Option Sys2Proof.Word) (k : Option Sys2Proof.Sel) :
    Sys2Proof.Laws.EncodingFields.Statement (.brm v k) := Sys2Proof.Laws.EncodingFields.of_encode _

theorem Sys2Proof.Laws.EncodingFields.bre (v : Option Sys2Proof.Word) (k : Option Sys2Proof.Sel) :
    Sys2Proof.Laws.EncodingFields.Statement (.bre v k) := Sys2Proof.Laws.EncodingFields.of_encode _

theorem Sys2Proof.Laws.EncodingFields.brl (v : Option Sys2Proof.Word) (k : Option Sys2Proof.Sel) :
    Sys2Proof.Laws.EncodingFields.Statement (.brl v k) := Sys2Proof.Laws.EncodingFields.of_encode _

theorem Sys2Proof.Laws.EncodingFields.bri (v : Option Sys2Proof.Word) (k : Option Sys2Proof.Sel) :
    Sys2Proof.Laws.EncodingFields.Statement (.bri v k) := Sys2Proof.Laws.EncodingFields.of_encode _

theorem Sys2Proof.Laws.EncodingFields.rav (v : Option Sys2Proof.Word) (k : Option Sys2Proof.Sel) :
    Sys2Proof.Laws.EncodingFields.Statement (.rav v k) := Sys2Proof.Laws.EncodingFields.of_encode _

theorem Sys2Proof.Laws.EncodingFields.raa (v : Option Sys2Proof.Word) (k : Option Sys2Proof.Sel) :
    Sys2Proof.Laws.EncodingFields.Statement (.raa v k) := Sys2Proof.Laws.EncodingFields.of_encode _

theorem Sys2Proof.Laws.EncodingFields.stv (v : Option Sys2Proof.Word) (k : Option Sys2Proof.Sel) :
    Sys2Proof.Laws.EncodingFields.Statement (.stv v k) := Sys2Proof.Laws.EncodingFields.of_encode _

theorem Sys2Proof.Laws.EncodingFields.sta (v : Option Sys2Proof.Word) (k : Option Sys2Proof.Sel) :
    Sys2Proof.Laws.EncodingFields.Statement (.sta v k) := Sys2Proof.Laws.EncodingFields.of_encode _

theorem Sys2Proof.Laws.EncodingFields.lva (v : Option Sys2Proof.Word) (k : Option Sys2Proof.Sel) :
    Sys2Proof.Laws.EncodingFields.Statement (.lva v k) := Sys2Proof.Laws.EncodingFields.of_encode _

theorem Sys2Proof.Laws.EncodingFields.lvb (v : Option Sys2Proof.Word) (k : Option Sys2Proof.Sel) :
    Sys2Proof.Laws.EncodingFields.Statement (.lvb v k) := Sys2Proof.Laws.EncodingFields.of_encode _

theorem Sys2Proof.Laws.EncodingFields.lra (v : Option Sys2Proof.Word) (k : Option Sys2Proof.Sel) :
    Sys2Proof.Laws.EncodingFields.Statement (.lra v k) := Sys2Proof.Laws.EncodingFields.of_encode _

theorem Sys2Proof.Laws.EncodingFields.lrb (v : Option Sys2Proof.Word) (k : Option Sys2Proof.Sel) :
    Sys2Proof.Laws.EncodingFields.Statement (.lrb v k) := Sys2Proof.Laws.EncodingFields.of_encode _

theorem Sys2Proof.Laws.EncodingFields.laa (v : Option Sys2Proof.Word) (k : Option Sys2Proof.Sel) :
    Sys2Proof.Laws.EncodingFields.Statement (.laa v k) := Sys2Proof.Laws.EncodingFields.of_encode _

theorem Sys2Proof.Laws.EncodingFields.lab (v : Option Sys2Proof.Word) (k : Option Sys2Proof.Sel) :
    Sys2Proof.Laws.EncodingFields.Statement (.lab v k) := Sys2Proof.Laws.EncodingFields.of_encode _

theorem Sys2Proof.Laws.EncodingFields.add (v : Option Sys2Proof.Word) (k : Option Sys2Proof.Sel) :
    Sys2Proof.Laws.EncodingFields.Statement (.add v k) := Sys2Proof.Laws.EncodingFields.of_encode _

theorem Sys2Proof.Laws.EncodingFields.sub (v : Option Sys2Proof.Word) (k : Option Sys2Proof.Sel) :
    Sys2Proof.Laws.EncodingFields.Statement (.sub v k) := Sys2Proof.Laws.EncodingFields.of_encode _

theorem Sys2Proof.Laws.EncodingFields.and (v : Option Sys2Proof.Word) (k : Option Sys2Proof.Sel) :
    Sys2Proof.Laws.EncodingFields.Statement (.and v k) := Sys2Proof.Laws.EncodingFields.of_encode _

theorem Sys2Proof.Laws.EncodingFields.or (v : Option Sys2Proof.Word) (k : Option Sys2Proof.Sel) :
    Sys2Proof.Laws.EncodingFields.Statement (.or v k) := Sys2Proof.Laws.EncodingFields.of_encode _

theorem Sys2Proof.Laws.EncodingFields.xor (v : Option Sys2Proof.Word) (k : Option Sys2Proof.Sel) :
    Sys2Proof.Laws.EncodingFields.Statement (.xor v k) := Sys2Proof.Laws.EncodingFields.of_encode _

theorem Sys2Proof.Laws.EncodingFields.rnr (v : Option Sys2Proof.Word) (k : Option Sys2Proof.Sel) :
    Sys2Proof.Laws.EncodingFields.Statement (.rnr v k) := Sys2Proof.Laws.EncodingFields.of_encode _

theorem Sys2Proof.Laws.EncodingFields.ria (v : Option Sys2Proof.Word) (k : Option Sys2Proof.Sel) :
    Sys2Proof.Laws.EncodingFields.Statement (.ria v k) := Sys2Proof.Laws.EncodingFields.of_encode _

theorem Sys2Proof.Laws.EncodingFields.riv (v : Option Sys2Proof.Word) (k : Option Sys2Proof.Sel) :
    Sys2Proof.Laws.EncodingFields.Statement (.riv v k) := Sys2Proof.Laws.EncodingFields.of_encode _

theorem Sys2Proof.Laws.EncodingFields.sia (v : Option Sys2Proof.Word) (k : Option Sys2Proof.Sel) :
    Sys2Proof.Laws.EncodingFields.Statement (.sia v k) := Sys2Proof.Laws.EncodingFields.of_encode _

theorem Sys2Proof.Laws.EncodingFields.sib (v : Option Sys2Proof.Word) (k : Option Sys2Proof.Sel) :
    Sys2Proof.Laws.EncodingFields.Statement (.sib v k) := Sys2Proof.Laws.EncodingFields.of_encode _

theorem Sys2Proof.Laws.EncodingFields.sir (v : Option Sys2Proof.Word) (k : Option Sys2Proof.Sel) :
    Sys2Proof.Laws.EncodingFields.Statement (.sir v k) := Sys2Proof.Laws.EncodingFields.of_encode _

theorem Sys2Proof.Laws.EncodingFields.csm (v : Option Sys2Proof.Word) (k : Option Sys2Proof.Sel) :
    Sys2Proof.Laws.EncodingFields.Statement (.csm v k) := Sys2Proof.Laws.EncodingFields.of_encode _

theorem Sys2Proof.Laws.EncodingFields.hlt (v : Option Sys2Proof.Word) (k : Option Sys2Proof.Sel) :
    Sys2Proof.Laws.EncodingFields.Statement (.hlt v k) := Sys2Proof.Laws.EncodingFields.of_encode _

theorem Sys2Proof.Laws.EncodingFields.reserved29 (v : Option Sys2Proof.Word) (k : Option Sys2Proof.Sel) :
    Sys2Proof.Laws.EncodingFields.Statement (.reserved29 v k) := Sys2Proof.Laws.EncodingFields.of_encode _

theorem Sys2Proof.Laws.EncodingFields.reserved30 (v : Option Sys2Proof.Word) (k : Option Sys2Proof.Sel) :
    Sys2Proof.Laws.EncodingFields.Statement (.reserved30 v k) := Sys2Proof.Laws.EncodingFields.of_encode _

theorem Sys2Proof.Laws.EncodingFields.reserved31 (v : Option Sys2Proof.Word) (k : Option Sys2Proof.Sel) :
    Sys2Proof.Laws.EncodingFields.Statement (.reserved31 v k) := Sys2Proof.Laws.EncodingFields.of_encode _
end

