-- ==== Sys2Proof/Tests/Slice0.lean ====
section
/-! SUPPORT. Tests on one step of a small state. The expected results are those of spec/95_test_vectors.md (its ids are
in the comments) and of the examples in the instruction rules. Then, for each statement with hypotheses, a state and
operands that meet them. -/

namespace Sys2Proof.Tests

open Sys2Proof.Machine

/-! ### Well-formedness: an ill-formed term for each check -/

theorem test_wf_needs_selector : Instr.wf (.add none none) = false := by decide

theorem test_wf_needs_operand : Instr.wf (.bra none none) = false := by decide

theorem test_wf_ignores_unused : Instr.wf (.sir none none) = true := by decide

theorem test_valid_program_length :
    validProgram Config.defaultParams (List.replicate 65 (.nop none none)) = false := by decide

theorem test_valid_program_reserved :
    validProgram Config.defaultParams [.reserved29 none none] = false ∧
    validProgram ⟨.wrap64, .nop⟩ [.reserved29 none none] = true := by decide

/-! ### Decoding: words written out from the encodings of the rules, opcode ++ operand ++ selector (R98) -/

theorem test_decode_branch :
    decodeWord 0b00001_0000000000000010_00 = .bra (some 2) (some 0) ∧
    decodeWord 0b00010_0000000000000010_00 = .brm (some 2) (some 0) ∧
    decodeWord 0b00011_0000000000000000_10 = .bre (some 0) (some 2) ∧
    decodeWord 0b00100_0000000000000101_01 = .brl (some 5) (some 1) ∧
    decodeWord 0b00101_0000000000000100_00 = .bri (some 4) (some 0) := by decide

theorem test_decode_memory :
    decodeWord 0b00110_0000000000010000_00 = .rav (some 16) (some 0) ∧
    decodeWord 0b00111_0000000000000000_01 = .raa (some 0) (some 1) ∧
    decodeWord 0b01000_1111111111111111_00 = .stv (some 65535) (some 0) ∧
    decodeWord 0b01001_0000000000000000_11 = .sta (some 0) (some 3) := by decide

theorem test_decode_load :
    decodeWord 0b01010_1111111111111111_11 = .lva (some 65535) (some 3) ∧
    decodeWord 0b01011_0000000000000011_00 = .lvb (some 3) (some 0) ∧
    decodeWord 0b01100_0000000000000000_01 = .lra (some 0) (some 1) ∧
    decodeWord 0b01101_0000000000000000_00 = .lrb (some 0) (some 0) ∧
    decodeWord 0b01110_0000000000000000_00 = .laa (some 0) (some 0) ∧
    decodeWord 0b01111_0000000000000000_11 = .lab (some 0) (some 3) := by decide

theorem test_decode_compute :
    decodeWord 0b10000_0000010011010010_11 = .add (some 1234) (some 3) ∧
    decodeWord 0b10001_0000000000000000_00 = .sub (some 0) (some 0) ∧
    decodeWord 0b10010_0000000000000000_10 = .and (some 0) (some 2) ∧
    decodeWord 0b10011_0000000000000000_10 = .or (some 0) (some 2) ∧
    decodeWord 0b10100_0000000000000000_10 = .xor (some 0) (some 2) := by decide

theorem test_decode_random_input :
    decodeWord 0b10101_0000111111110000_00 = .rnr (some 4080) (some 0) ∧
    decodeWord 0b10110_0000000000001101_00 = .ria (some 13) (some 0) ∧
    decodeWord 0b10111_0000000001100011_00 = .riv (some 99) (some 0) ∧
    decodeWord 0b11000_0000000000000000_01 = .sia (some 0) (some 1) ∧
    decodeWord 0b11001_0000000000000000_10 = .sib (some 0) (some 2) ∧
    decodeWord 0b11010_0000000000000000_00 = .sir (some 0) (some 0) := by decide

theorem test_decode_control :
    decodeWord 0b00000_1111111111111111_11 = .nop (some 65535) (some 3) ∧
    decodeWord 0b11011_0000000000000000_00 = .csm (some 0) (some 0) ∧
    decodeWord 0b11100_1111111111111111_11 = .hlt (some 65535) (some 3) ∧
    decodeWord 0b11101_0000000000000000_00 = .reserved29 (some 0) (some 0) ∧
    decodeWord 0b11110_0000000000000000_00 = .reserved30 (some 0) (some 0) ∧
    decodeWord 0b11111_1111111111111111_11 = .reserved31 (some 65535) (some 3) := by decide

/-- The hexadecimal words of the examples (S-A, S-D, LD3). -/
theorem test_encode :
    encode (.lva (some 5) (some 0)) = 0x280014 ∧ encode (.sta none (some 0)) = 0x240000 ∧
    encode (.riv (some 99) none) = 0x5C018C ∧ encode (.lvb (some 32768) (some 2)) = 0x2E0002 ∧
    encode (.hlt none none) = 0x700000 := by decide

theorem test_decode_too_wide : decodeTableWord 24 (2 ^ 23) = none := by decide

theorem test_table_word : decodeTableWord 24 0x440001 = some (.sub (some 0) (some 1)) := by decide

/-! ### One instruction on a small state -/

/-- Whether an instruction answers a next state that `p` holds of. -/
def after (i : Instr) (s : State) (p : State → Bool) : Bool :=
  match exec i s with
  | .next t => p t
  | .fault _ | .refused _ => false

/-- Whether a step answers a next state that `p` holds of. -/
def afterStep (s : State) (p : State → Bool) : Bool :=
  match step s with
  | .next t => p t
  | .fault _ | .refused _ => false

/-- The reset state with one unit's registers and the program address set. -/
def withAlu (k : Sel) (u : Alu) (a : ProgIndex) : State :=
  { setAlu k u State.reset with pcAddress := .slot a }

/-- BR1. -/
theorem test_bra : after (.bra (some 10) none) (withAlu 0 ⟨0, 0, 0⟩ 3) (fun t => t.pcAddress == .slot 10) = true := by
  decide

/-- BR4, BR6: the two modes. -/
theorem test_bra_64 :
    after (.bra (some 64) none) State.reset (fun t => t.pcAddress == .slot 0) = true ∧
    after (.bra (some 64) none) { State.reset with params := ⟨.overrun, .refuse⟩ }
      (fun t => t.pcAddress == .beyond 64) = true := by decide

/-- BR7, BR9: unsigned. -/
theorem test_brm :
    after (.brm (some 2) (some 0)) (withAlu 0 ⟨3, 1, 0⟩ 4) (fun t => t.pcAddress == .slot 2) = true ∧
    after (.brm (some 2) (some 0)) (withAlu 0 ⟨0, 65535, 0⟩ 4) (fun t => t.pcAddress == .slot 5) = true := by decide

/-- BR11, BR13: only the selected unit is compared. -/
theorem test_bre :
    after (.bre (some 0) (some 2)) (withAlu 2 ⟨9, 9, 0⟩ 7) (fun t => t.pcAddress == .slot 0) = true ∧
    after (.bre (some 0) (some 1)) (withAlu 1 ⟨1, 2, 0⟩ 7) (fun t => t.pcAddress == .slot 8) = true := by decide

/-- BR14, BR15. -/
theorem test_brl :
    after (.brl (some 5) (some 1)) (withAlu 1 ⟨2, 5, 0⟩ 2) (fun t => t.pcAddress == .slot 5) = true ∧
    after (.brl (some 5) (some 1)) (withAlu 1 ⟨5, 5, 0⟩ 2) (fun t => t.pcAddress == .slot 3) = true := by decide

/-- BR16: the key is not consumed. -/
theorem test_bri :
    after (.bri (some 4) none) { State.reset with pendingKey := some 3 }
      (fun t => t.pcAddress == .slot 4 && t.pendingKey == some 3) = true := by decide

/-- BR18: an untaken branch at 63 wraps. -/
theorem test_wrap_63 :
    after (.brm (some 9) (some 0)) (withAlu 0 ⟨0, 0, 0⟩ 63) (fun t => t.pcAddress == .slot 0) = true := by decide

/-- ME4, ME6. -/
theorem test_cursor :
    after (.rav (some 37) none) State.reset (fun t => t.ramCursor == 5) = true ∧
    after (.raa none (some 1)) (withAlu 1 ⟨0, 0, 0x0123⟩ 0) (fun t => t.ramCursor == 3) = true := by decide

/-- ME9, ME11: writing 0 leaves nothing listed. -/
theorem test_stv :
    after (.stv (some 1) none) { State.reset with ramCursor := 16, ram := [(16, 7)] }
      (fun t => t.ram == [(16, 1)]) = true ∧
    after (.stv (some 0) none) { State.reset with ramCursor := 31, ram := [(31, 9)] }
      (fun t => t.ram == []) = true := by decide

/-- ME13: the selected unit's accumulator. -/
theorem test_sta :
    after (.sta none (some 3)) { withAlu 3 ⟨0, 0, 0xFFFE⟩ 0 with ramCursor := 20 }
      (fun t => t.ram.read 20 == 0xFFFE) = true := by decide

/-- LD2, LD3: ACC is not computed anew. -/
theorem test_load_literal :
    after (.lva (some 65535) (some 3)) (withAlu 3 ⟨1, 2, 3⟩ 0) (fun t => t.alu 3 == ⟨65535, 2, 3⟩) = true ∧
    after (.lvb (some 32768) (some 2)) (withAlu 2 ⟨1, 2, 3⟩ 0) (fun t => t.alu 2 == ⟨1, 32768, 3⟩) = true := by decide

/-- LD4, LD5. -/
theorem test_load_ram :
    after (.lra none (some 1)) { withAlu 1 ⟨9, 9, 9⟩ 0 with ramCursor := 17, ram := [(17, 4)] }
      (fun t => t.alu 1 == ⟨4, 9, 9⟩) = true ∧
    after (.lrb none (some 0)) { withAlu 0 ⟨1, 2, 3⟩ 0 with ramCursor := 16, ram := [(16, 0xABCD)] }
      (fun t => t.alu 0 == ⟨1, 0xABCD, 3⟩) = true := by decide

/-- LD6, LD7. -/
theorem test_load_acc :
    after (.laa none (some 0)) (withAlu 0 ⟨4, 1, 3⟩ 0) (fun t => t.alu 0 == ⟨3, 1, 3⟩) = true ∧
    after (.lab none (some 3)) (withAlu 3 ⟨4, 1, 0xFFFF⟩ 0) (fun t => t.alu 3 == ⟨4, 0xFFFF, 0xFFFF⟩) = true := by
  decide

/-- Section 2.5, rows 2 and 4. -/
theorem test_add_sub :
    after (.add none (some 1)) (withAlu 1 ⟨0xFFFF, 1, 7⟩ 0) (fun t => t.alu 1 == ⟨0xFFFF, 1, 0⟩) = true ∧
    after (.sub none (some 1)) (withAlu 1 ⟨3, 5, 7⟩ 0) (fun t => t.alu 1 == ⟨3, 5, 0xFFFE⟩) = true := by decide

/-- Section 2.5, last row. -/
theorem test_bitwise :
    after (.and none (some 2)) (withAlu 2 ⟨0x0FF0, 0x3C3C, 0⟩ 0) (fun t => (t.alu 2).acc == 0x0C30) = true ∧
    after (.or none (some 2)) (withAlu 2 ⟨0x0FF0, 0x3C3C, 0⟩ 0) (fun t => (t.alu 2).acc == 0x3FFC) = true ∧
    after (.xor none (some 2)) (withAlu 2 ⟨0x0FF0, 0x3C3C, 0⟩ 0) (fun t => (t.alu 2).acc == 0x33CC) = true := by decide

/-- RN1. -/
theorem test_rnr :
    after (.rnr (some 4080) none) { State.reset with ramCursor := 20, draws := [0xA5C3, 1] }
      (fun t => t.ram.read 20 == 0x05C0 && t.draws == [1]) = true := by decide

/-- IN2, IN5. -/
theorem test_input_setup :
    after (.ria (some 13) none) State.reset (fun t => t.inputCursor == 5) = true ∧
    after (.riv (some 99) none) { State.reset with inputCursor := 7 }
      (fun t => t.inputSlot 7 == 99 && t.inputSlot 6 == 0) = true := by decide

/-- The reset state with slot 7 holding 99 and a pending key. -/
def withKey (j : Option SlotIndex) : State :=
  { State.reset with inputSlots := State.reset.inputSlots.set 7 99, pendingKey := j, ramCursor := 16, ram := [(16, 5)] }

/-- IN7, IN9, IN11. -/
theorem test_input_read :
    after (.sia none (some 1)) (withKey (some 7)) (fun t => (t.alu 1).a == 99 && t.pendingKey == none) = true ∧
    after (.sib none (some 2)) (withKey (some 7)) (fun t => (t.alu 2).b == 99 && t.pendingKey == none) = true ∧
    after (.sir none none) (withKey (some 7)) (fun t => t.ram == [(16, 99)] && t.pendingKey == none) = true := by decide

/-- IN8, IN12: the zero default. -/
theorem test_input_read_none :
    after (.sia none (some 1)) { withAlu 1 ⟨99, 2, 3⟩ 0 with pendingKey := none }
      (fun t => t.alu 1 == ⟨0, 2, 3⟩) = true ∧
    after (.sir none none) (withKey none) (fun t => t.ram == []) = true := by decide

/-- DC1. -/
theorem test_csm :
    after (.csm none none) { State.reset with ram := [(0, 0xFFFF), (15, 0xAAAA), (16, 7), (31, 9)], ramCursor := 16 }
      (fun t => t.ram == [(16, 7), (31, 9)] && t.ramCursor == 16) = true := by decide

/-- DC3, DC5: both fields ignored, no advance. -/
theorem test_hlt :
    after (.hlt (some 65535) (some 3)) (withAlu 0 ⟨0, 0, 0⟩ 4)
      (fun t => t.status == .haltedHlt && t.pcAddress == .slot 4) = true := by decide

/-- DC6. -/
theorem test_nop : after (.nop none none) (withAlu 0 ⟨0, 0, 0⟩ 9) (fun t => t.pcAddress == .slot 10) = true := by decide

/-- DC9: the two modes. -/
theorem test_reserved :
    after (.reserved30 none none) State.reset (fun _ => true) = false ∧
    after (.reserved30 none none) { State.reset with params := ⟨.wrap64, .nop⟩ }
      (fun t => t.pcAddress == .slot 1) = true := by decide

/-! ### The step, the boundary, the load -/

/-- The reset state with a program, at an address. -/
def running (prog : List Instr) (a : ProgIndex) : State :=
  { State.reset with prog := prog, pcAddress := .slot a }

/-- ST1, S-B. -/
theorem test_step_halts :
    afterStep State.reset (fun t => t.status == .haltedOverrun && t.pcAddress == .slot 0) = true ∧
    afterStep (running [.hlt none none] 0) (fun t => t.status == .haltedHlt && t.pcAddress == .slot 0) = true := by
  decide

/-- IN15, IN16, ST5: the key, then the stop. -/
theorem test_boundary :
    afterStep { running [.nop none none] 0 with pendingKey := some 2, handoffs := [⟨some 5, false⟩] }
      (fun t => t.pendingKey == some 2 && t.status == .running) = true ∧
    afterStep { running [.nop none none] 0 with handoffs := [⟨some 5, true⟩] }
      (fun t => t.pendingKey == some 5 && t.status == .stopped) = true := by decide

/-- ST9: a halting step takes no key. -/
theorem test_halting_step_takes_no_key :
    afterStep { running [.hlt none none] 0 with handoffs := [⟨some 5, false⟩] }
      (fun t => t.pendingKey == none && t.handoffs.length == 1) = true := by decide

/-- ST7, ST8. -/
theorem test_contract_violations :
    afterStep (running [.add none none] 1) (fun t => t.status == .haltedOverrun) = true ∧
    reportedStatus (step (running [.brm none none] 0)) = some .fault := by decide

/-- A word placed at the reset state runs in the first step. -/
theorem test_first_step_runs_placed_word :
    afterStep (State.reset.withFetchWord 24 0x280014) (fun t => (t.alu 0).a == 5 && t.pcAddress == .slot 1) = true := by
  decide

/-- DC9 at the load: reported by its address. -/
theorem test_load_reserved :
    (match loadWords Config.defaultOpcodeIds [0x000000, 0x740000] State.reset with
     | .ok _ => none
     | .error e => some e) = some (.badWord 1 (.reservedOpcode 29)) := by decide

/-- R106: the lines of scenario A. -/
theorem test_text :
    (match recordOfLine 0 ['L', 'V', 'A', ' ', '5', ' ', '0'] with
     | .ok i => some i
     | .error _ => none) = some (.lva (some 5) (some 0)) ∧
    (match recordOfLine 2 ['A', 'D', 'D', ' ', '.', ' ', '4'] with
     | .ok _ => none
     | .error e => some e) = some (.badSelector 2) := by decide

/-- The host's reset with the default values is the reset state (R40). -/
theorem test_reset_default : resetWith ResetValues.default State.reset = State.reset := by decide

/-- A numbering in which the no-op has the ID 31 and the ID 0 has no mnemonic (R101). -/
def swappedIds : OpcodeIds := (Config.defaultOpcodeIds.set 0 31).set 31 0

/-- The numbering decides what a word is. -/
theorem test_other_numbering :
    decodeWordIn swappedIds 0x7C0000 = .nop (some 0) (some 0) ∧
    decodeWordIn swappedIds 0x000000 = .reserved31 (some 0) (some 0) ∧
    encodeIn swappedIds (.nop none none) = 0x7C0000 ∧ encodeIn swappedIds (.hlt none none) = 0x700000 := by decide

/-- A numbering that gives an ID twice is not valid. -/
theorem test_invalid_numbering : validOpcodeIds (Config.defaultOpcodeIds.set 0 31) = false := by decide

/-! ### Witnesses: for each statement with hypotheses, a state and operands that meet all of them -/

/-- A state in the middle of a run. -/
def busy : State :=
  { setAlu 2 ⟨9, 9, 0xFFFF⟩ (setAlu 1 ⟨3, 1, 2⟩ State.reset) with
    ram := [(3, 7), (31, 9)], ramCursor := 31, pcAddress := .slot 63, inputCursor := 7, pendingKey := some 7,
    prog := List.replicate 63 (.nop none none) ++ [.sir none none], handoffs := [⟨none, false⟩, ⟨some 1, true⟩],
    draws := [0xA5C3] }

theorem witness_DecodeOfEncodeIsTheRecord :
    (Instr.operand (.add (some 1) (some 2))).isSome = true ∧
    (Instr.aluSelect (.add (some 1) (some 2))).isSome = true := by decide

theorem witness_FilledRecordRunsAlike : Instr.wf (.add none (some 3)) = true := by decide

theorem witness_UnusedFieldsAreIgnored :
    opcodeId (.add (some 7) (some 0)) = opcodeId (.add none (some 0)) ∧
    (Instr.usesOperand (.add (some 7) (some 0)) = true →
      Instr.operand (.add (some 7) (some 0)) = Instr.operand (.add none (some 0))) ∧
    (Instr.usesSel (.add (some 7) (some 0)) = true →
      Instr.aluSelect (.add (some 7) (some 0)) = Instr.aluSelect (.add none (some 0))) := by decide

theorem swappedIds_skip_zero :
    ∀ n : OpcodeId, n.toNat < 29 → swappedIds[n.toNat]'n.isLt ≠ opcField 0x000000 := by decide

/-- The last legal ID and the first reserved one, and in the other numbering an ID with a mnemonic and one without. -/
theorem witness_ReservedWordsAreReported :
    (opcField 0x73FFFF).toNat < 29 ∧ 29 ≤ (opcField 0x740000).toNat ∧ 29 ≤ (opcField 0x7FFFFF).toNat ∧
    (Instr.hlt none none).isReserved = false ∧ opcodeIdIn swappedIds (.nop none none) = opcField 0x7C0000 ∧
    ∀ i : Instr, i.isReserved = false → opcodeIdIn swappedIds i ≠ opcField 0x000000 :=
  ⟨by decide, by decide, by decide, rfl, by decide, fun i h =>
    swappedIds_skip_zero (rowOf i) (Nat.lt_of_not_le fun h' => by
      rw [← isReserved_iff_rowOf, h] at h'; exact Bool.noConfusion h')⟩

theorem witness_AnyNumberingRoundTrips :
    validOpcodeIds Config.defaultOpcodeIds = true ∧ validOpcodeIds swappedIds = true := by decide

theorem witness_TruncIsTheResidue : (0 : Int) ≤ 65535 ∧ (65535 : Int) < 2 ^ 16 ∧ (0 : Int) < 2 ^ 0 := by decide

theorem witness_RetruncationLaw : 16 ≤ 16 ∧ 3 ≤ 16 := by decide

theorem witness_ReadAfterWrite : busy.ram.wf = true := by decide

/-- The four ways an instruction ends. -/
theorem witness_StepRunsTheFetchedRecord :
    ((running [.nop none none] 0).status = .running ∧
      (running [.nop none none] 0).prog[(running [.nop none none] 0).pcAddress.toNat]? = some (.nop none none) ∧
      exec (.nop none none) (running [.nop none none] 0) = .next (running [.nop none none] 1) ∧
      (running [.nop none none] 1).status = .running) ∧
    (exec (.hlt none none) (running [.hlt none none] 0) = .next (halt .haltedHlt (running [.hlt none none] 0)) ∧
      (halt .haltedHlt (running [.hlt none none] 0)).status ≠ .running) ∧
    exec (.add none none) (running [.add none none] 0) = .fault .noAluSelect ∧
    exec (.reserved29 none none) (running [.reserved29 none none] 0) = .refused (.reservedOpcode 29) :=
  ⟨⟨rfl, rfl, rfl, rfl⟩, ⟨rfl, by decide⟩, rfl, rfl⟩

theorem witness_StepRunsThePlacedWord :
    (running [.nop none none, .hlt none none] 0).status = .running ∧
    (running [.nop none none, .hlt none none] 0).pcAddress = .slot 0 ∧
    1 < (running [.nop none none, .hlt none none] 0).prog.length := by decide

/-- The first address that overruns, and the empty program. -/
theorem witness_OverrunHaltsBeforeFetch :
    ((running [.nop none none] 1).status = .running ∧
      (running [.nop none none] 1).prog.length ≤ (running [.nop none none] 1).pcAddress.toNat) ∧
    State.reset.prog.length ≤ State.reset.pcAddress.toNat := by decide

theorem witness_OnlyARunningMachineSteps : (halt .stopped busy).status ≠ .running := by decide

theorem witness_BoundaryTakesKeyThenStop :
    (busy.status = .running ∧ fetch busy = some (.sir none none) ∧
      exec (.sir none none) busy =
        .next (advance (writeAtCurrent (pendingValue busy) (clearPending busy))) ∧
      (advance (writeAtCurrent (pendingValue busy) (clearPending busy))).status = .running ∧
      (advance (writeAtCurrent (pendingValue busy) (clearPending busy))).handoffs =
        [⟨none, false⟩, ⟨some 1, true⟩]) ∧
    (running [.nop none none] 1).handoffs = [] := ⟨⟨rfl, rfl, rfl, rfl, rfl⟩, rfl⟩

theorem witness_HaltingStepKeepsTheAddress :
    (running [.hlt none none] 0).status = .running ∧ fetch (running [.hlt none none] 0) = some (.hlt none none) ∧
    (running [.hlt none none] 1).prog.length ≤ (running [.hlt none none] 1).pcAddress.toNat := by decide

theorem witness_AdvanceTakesTheJumpOrTheNextSlot :
    (jump 70 busy).pendingJump = some (.slot 6) ∧ busy.pendingJump = none ∧ busy.pcAddress = .slot 63 ∧
    isHlt (.nop none none) = false ∧ isHlt (.hlt none none) = true ∧ isBranch (.bri (some 0) none) = true ∧
    isBranch (.stv (some 0) none) = false ∧ busy.ram.wf = true := by decide

theorem witness_AdvanceTakesTheJumpOrTheNextSlot_completes :
    (∃ t, exec (.bri (some 70) none) busy = .next t) ∧ (∃ t, exec (.stv (some 1) none) busy = .next t) ∧
    (∃ t, exec (.hlt none none) busy = .next t) := ⟨⟨_, rfl⟩, ⟨_, rfl⟩, ⟨_, rfl⟩⟩

theorem witness_StatusAfterAStep :
    (running [.hlt none none] 0).status = .running ∧
    step (running [.hlt none none] 0) = .next (halt .haltedHlt (running [.hlt none none] 0)) ∧
    step (running [.hlt none none] 1) = .next (halt .haltedOverrun (running [.hlt none none] 1)) := ⟨rfl, rfl, rfl⟩

theorem witness_FullProgramNeverOverruns :
    busy.Inv ∧ busy.params.branchTargetMode = .wrap64 ∧ busy.prog.length = 64 ∧ busy.status = .running := by decide

theorem witness_FullProgramNeverOverruns_steps : ∃ t, step busy = .next t := ⟨_, rfl⟩

/-- Both modes, and the operands where they part. -/
theorem witness_BraGoesToItsTarget :
    busy.pendingJump = none ∧ busy.params.branchTargetMode = .wrap64 ∧
    { busy with params := ⟨.overrun, .refuse⟩ }.params.branchTargetMode = .overrun ∧
    (63 : Word).toNat < 64 ∧ 64 ≤ (64 : Word).toNat := by decide

/-- More, equal and less. -/
theorem witness_CompareBranchesTestAAgainstB :
    busy.pendingJump = none ∧ (busy.alu 1).b.toNat < (busy.alu 1).a.toNat ∧ (busy.alu 2).a = (busy.alu 2).b ∧
    ((withAlu 3 ⟨0, 65535, 0⟩ 0).alu 3).a.toNat < ((withAlu 3 ⟨0, 65535, 0⟩ 0).alu 3).b.toNat := by decide

theorem witness_BriTestsThePendingKey :
    busy.pendingJump = none ∧ busy.pendingKey ≠ none ∧ State.reset.pendingJump = none ∧
    State.reset.pendingKey = none := by decide

/-- P6, and an operand of 64 in the mode `overrun`. -/
theorem witness_BranchBeyondTheProgramOverruns :
    ((running [.bra (some 10) none] 0).status = .running ∧ (running [.bra (some 10) none] 0).prog.length ≤ 64 ∧
      fetch (running [.bra (some 10) none] 0) = some (.bra (some 10) none) ∧
      step (running [.bra (some 10) none] 0) = .next (running [.bra (some 10) none] 10) ∧
      (running [.bra (some 10) none] 10).status = .running ∧
      (running [.bra (some 10) none] 0).prog.length ≤ (10 : Word).toNat % 64) ∧
    (step { running [.bra (some 64) none] 0 with params := ⟨.overrun, .refuse⟩ } =
        .next { running [.bra (some 64) none] 0 with params := ⟨.overrun, .refuse⟩, pcAddress := .beyond 64 } ∧
      (running [.bra (some 64) none] 0).prog.length ≤ (64 : Word).toNat) :=
  ⟨⟨rfl, by decide, rfl, rfl, rfl, by decide⟩, rfl, by decide⟩

theorem witness_RavAndRaaSetTheCursor : busy.pendingJump = none := rfl

theorem witness_StvAndStaWriteTheCurrentCell : busy.ram.wf = true ∧ busy.pendingJump = none := by decide

theorem witness_LvaAndLvbLoadTheOperand : busy.pendingJump = none := rfl

theorem witness_LraAndLrbLoadTheCurrentCell : busy.pendingJump = none ∧ readAtCurrent busy = 9 := by decide

theorem witness_LaaAndLabLoadTheOwnAccumulator : busy.pendingJump = none := rfl

/-- Both sides of the subtraction's wrap. -/
theorem witness_AddAndSubWrapAt65536 :
    busy.pendingJump = none ∧ (busy.alu 1).b.toNat ≤ (busy.alu 1).a.toNat ∧
    ¬ ((withAlu 3 ⟨0, 1, 0⟩ 0).alu 3).b.toNat ≤ ((withAlu 3 ⟨0, 1, 0⟩ 0).alu 3).a.toNat := by decide

theorem witness_BitwiseOpsActBitByBit : busy.pendingJump = none ∧ 0 < 16 ∧ 15 < 16 := by decide

/-- A listed draw and the free one. -/
theorem witness_RnrStoresAMaskedDraw :
    busy.ram.wf = true ∧ busy.pendingJump = none ∧ busy.draws = [0xA5C3] ∧ State.reset.ram.wf = true ∧
    State.reset.pendingJump = none ∧ State.reset.draws = [] := by decide

theorem witness_RnrReachesExactlyTheMaskedValues :
    busy.ram.wf = true ∧ (0x05C0 : Word) &&& ~~~0x0FF0 = 0 ∧ (1 : Word) &&& ~~~0x0FF0 ≠ 0 := by decide

theorem witness_RiaAndRivSetUpTheSlots : busy.pendingJump = none := rfl

/-- A pending key, and none. -/
theorem witness_InputReadsConsumeTheKey :
    ((withKey (some 7)).ram.wf = true ∧ (withKey (some 7)).pendingJump = none ∧
      (withKey (some 7)).pendingKey = some 7 ∧ (99 : Word) = (withKey (some 7)).inputSlot 7) ∧
    ((withKey none).ram.wf = true ∧ (withKey none).pendingJump = none ∧ (withKey none).pendingKey = none) := by decide

/-- S-D: two `SIR` in a row. -/
theorem witness_SecondReadWithoutAKeyGivesZero :
    ({ running [.sir none none, .sir none none] 0 with pendingKey := some 7 }.ram.wf = true ∧
      fetch { running [.sir none none, .sir none none] 0 with pendingKey := some 7 } = some (.sir none none) ∧
      step { running [.sir none none, .sir none none] 0 with pendingKey := some 7 } =
        .next (running [.sir none none, .sir none none] 1) ∧
      (running [.sir none none, .sir none none] 1).status = .running ∧
      { running [.sir none none, .sir none none] 0 with pendingKey := some 7 }.handoffs = []) ∧
    fetch (running [.sir none none, .sir none none] 1) = some (.sir none none) ∧
    step (running [.sir none none, .sir none none] 1) = .next (running [.sir none none, .sir none none] 2) ∧
    busy.handoffs = ⟨none, false⟩ :: [⟨some 1, true⟩] :=
  ⟨⟨rfl, rfl, rfl, rfl, rfl⟩, rfl, rfl, rfl⟩

theorem witness_NoInstructionSetsThePendingKey :
    exec (.nop none none) (running [] 0) = .next (running [] 1) ∧
    exec (.sia none (some 0)) busy = .next (advance (setRegisterA 0 (pendingValue busy) (clearPending busy))) :=
  ⟨rfl, rfl⟩

/-- The cells on the two sides of the screen's edge. -/
theorem witness_CsmClearsTheScreenOnly :
    busy.ram.wf = true ∧ busy.pendingJump = none ∧ 15 < 16 ∧ 16 ≤ 16 := by decide

theorem witness_OnlyHltHalts :
    exec (.hlt none none) busy = .next (halt .haltedHlt busy) ∧ (halt .haltedHlt busy).status ≠ busy.status :=
  ⟨rfl, by decide⟩

theorem witness_NopOnlyAdvances : busy.pendingJump = none := rfl

theorem witness_ReservedIdsFollowTheMode :
    ({ busy with params := ⟨.wrap64, .nop⟩ }.params.reservedOpcodeMode = .nop ∧
      { busy with params := ⟨.wrap64, .nop⟩ }.pendingJump = none) ∧
    busy.params.reservedOpcodeMode = .refuse := by decide

/-- Each violation, the selector first where both fields are absent. -/
theorem witness_FaultsExactlyOnAnAbsentField :
    (Instr.usesSel (.brm none none) = true ∧ Instr.aluSelect (.brm none none) = none) ∧
    (Instr.aluSelect (.brm none (some 0)) ≠ none ∧ Instr.usesOperand (.brm none (some 0)) = true ∧
      Instr.operand (.brm none (some 0)) = none) := by decide

theorem witness_WellFormedRecordsComplete :
    (Instr.wf (.lva (some 5) (some 0)) = true ∧ Instr.admitted .refuse (.lva (some 5) (some 0)) = true) ∧
    (Instr.wf (.reserved31 none none) = true ∧ Instr.admitted .nop (.reserved31 none none) = true) := by decide

theorem witness_InstructionsWriteOnlyTheirRow :
    busy.ram.wf = true ∧
    exec (.stv (some 1) none) busy = .next (advance (writeAtCurrent 1 busy)) := ⟨by decide, rfl⟩

theorem witness_UnselectedUnitsDoNotMatter :
    (Instr.usesSel (.add none (some 1)) = true → Instr.aluSelect (.add none (some 1)) ≠ some 2) ∧
    (Instr.usesSel (.nop none none) = true → Instr.aluSelect (.nop none none) ≠ some 2) := by decide

theorem witness_StepKeepsTheInvariant : busy.Inv := by decide

theorem witness_StepKeepsTheInvariant_steps : ∃ t, step busy = .next t := ⟨_, rfl⟩

theorem witness_StepsNeverChangeTheProgram :
    step (running [.bra (some 0) none] 0) = .next (running [.bra (some 0) none] 0) ∧
    (running [.bra (some 0) none] 0).pcAddress = (running [.bra (some 0) none] 0).pcAddress := ⟨rfl, rfl⟩

theorem witness_ValidProgramsNeverGoWrong :
    validProgram busy.params busy.prog = true ∧
    validProgram ⟨.overrun, .nop⟩ [.reserved29 none none, .lva (some 1) (some 0)] = true := by decide

theorem witness_ResetKeepsTheProgramAndStartsAtZero : busy.prog.length ≤ 64 := by decide

/-- Scenario B as words: the load succeeds, and its words are admitted. -/
theorem witness_LoadPlacesTheDecodedWords :
    ((loadWords Config.defaultOpcodeIds [0x700000] State.reset).toOption.map (fun t => t.prog)) = some [.hlt (some 0) (some 0)] ∧
    [(0x700000 : InstrWord)].length ≤ 64 ∧
    (∀ w ∈ [(0x700000 : InstrWord)], 
      (decodeWordIn Config.defaultOpcodeIds w).admitted State.reset.params.reservedOpcodeMode = true) :=
  ⟨by decide, by decide, fun w hw => by rw [List.mem_singleton.1 hw]; decide⟩

/-- Each clause: an accepted text of one good line, a text of 65 lines, a text with a rejected line. -/
theorem witness_ProgramTextGivesOneRecordPerLine :
    ((match programOfText [['H', 'L', 'T', ' ', '.', ' ', '.']] with
      | .ok [.hlt none none] => true
      | _ => false) && decide (64 < (List.replicate 65 ['.']).length) &&
      (match recordOfLine 0 ['X', ' ', '.', ' ', '.'] with
       | .error _ => true
       | .ok _ => false)) = true := by decide

/-- A digit's token, and tokens with another character. -/
theorem witness_OperandTokenIsUnsignedDecimal :
    operandOfText ['0', '6', '5', '5', '3', '7'] = some (some 1) ∧ '-' ∈ ['-', '1'] ∧ '-'.isDigit = false ∧
    ['-', '1'] ≠ ['.'] ∧ '.' ∈ ['.', '5'] ∧ '.'.isDigit = false ∧ ['.', '5'] ≠ ['.'] := by decide

end Sys2Proof.Tests
end

section
/-! The program store and the parameters are fixed for a run (R72): an instruction, a handoff and hence a step keep them,
and a fetch depends on nothing else but `pc.address`. -/

namespace Sys2Proof.Machine

/-- `fetch` reads the program store and `pc.address` only. -/
theorem fetch_congr {s t : State} (hprog : t.prog = s.prog) (hpc : t.pcAddress = s.pcAddress) : fetch t = fetch s := by
  simp only [fetch, hprog, hpc]

theorem exec_keeps_program {i : Instr} {s t : State} (h : exec i s = .next t) :
    t.prog = s.prog ∧ t.params = s.params := by
  obtain ⟨-, rfl⟩ | ⟨-, u, rfl, hu⟩ := exec_next h
  · exact ⟨halt_prog _ s, halt_params _ s⟩
  · exact ⟨(advance_prog u).trans hu.prog, (advance_params u).trans hu.params⟩

theorem handoff_keeps_program (s : State) : (handoff s).prog = s.prog ∧ (handoff s).params = s.params := by
  obtain ⟨-, hs⟩ | ⟨_, _, -, hs⟩ := handoff_cases s <;> simp [hs]

theorem step_keeps_program {s t : State} (h : step s = .next t) : t.prog = s.prog ∧ t.params = s.params := by
  obtain ⟨-, rfl⟩ | ⟨-, -, rfl⟩ | ⟨i, u, -, -, hu, ⟨-, rfl⟩ | ⟨-, rfl⟩⟩ := step_next h
  · exact ⟨rfl, rfl⟩
  · exact ⟨halt_prog _ s, halt_params _ s⟩
  · obtain ⟨hprog, hparams⟩ := handoff_keeps_program u
    obtain ⟨hprog', hparams'⟩ := exec_keeps_program hu
    exact ⟨hprog.trans hprog', hparams.trans hparams'⟩
  · exact exec_keeps_program hu

/-- Settles O49: every step keeps the program store, so the fetch at an address gives the same record. -/
theorem stepsNeverChangeTheProgram : Obligations.StepsNeverChangeTheProgram := by
  intro s t h
  obtain ⟨hprog, hparams⟩ := step_keeps_program h
  exact ⟨hprog, hparams, fetch_congr hprog⟩

end Sys2Proof.Machine
end

section
/-! Truncation as an integer residue (R130), and the words that the operand kinds and the ALU make with it. -/

namespace Sys2Proof.Machine

/-- R130: as a number a truncation is the residue with the mathematical modulus. -/
theorem trunc_toNat_eq_emod (n : Nat) (v : Int) : ((trunc n v).toNat : Int) = v % (2 : Int) ^ n := by
  have hpos : (0 : Int) < 2 ^ n := by positivity
  rw [trunc, BitVec.toNat_ofInt]
  push_cast
  exact Int.toNat_of_nonneg (Int.emod_nonneg v hpos.ne')

theorem trunc_natCast_toNat (n v : Nat) : (trunc n (v : Int)).toNat = v % 2 ^ n := by
  rw [trunc_natCast, BitVec.toNat_ofNat]

theorem aluAdd_toNat (u : Alu) : (aluAdd u).toNat = (u.a.toNat + u.b.toNat) % 65536 := by
  rw [aluAdd, ← Nat.cast_add, trunc_natCast_toNat]
  rfl

theorem aluSubtract_toNat (u : Alu) :
    (aluSubtract u).toNat =
      if u.b.toNat ≤ u.a.toNat then u.a.toNat - u.b.toNat else u.a.toNat + 65536 - u.b.toNat := by
  have hres : ((aluSubtract u).toNat : Int) = ((u.a.toNat : Int) - u.b.toNat) % 65536 := trunc_toNat_eq_emod 16 _
  have ha := u.a.isLt
  have hb := u.b.isLt
  split <;> omega

/-- Settles O8: `trunc_toNat_eq_emod`, and a number in range is its own residue. -/
theorem truncIsTheResidue : Obligations.TruncIsTheResidue := by
  intro n v
  have hres := trunc_toNat_eq_emod n v
  exact ⟨hres, fun h0 hlt => hres.trans (Int.emod_eq_of_lt h0 hlt)⟩

/-- Settles O9: 2^w divides 2^16, so the residue modulo 2^16 has the same residue modulo 2^w. -/
theorem retruncationLaw : Obligations.RetruncationLaw := by
  intro w v hw
  have hdvd : (2 : Int) ^ w ∣ 2 ^ 16 := pow_dvd_pow 2 hw
  have hres : ((trunc w v).toNat : Int) = (trunc w ((trunc 16 v).toNat : Int)).toNat := by
    rw [trunc_toNat_eq_emod, trunc_toNat_eq_emod, trunc_toNat_eq_emod, Int.emod_emod_of_dvd v hdvd]
  exact BitVec.eq_of_toNat_eq (Int.ofNat_inj.1 hres)

end Sys2Proof.Machine
end

section
/-! What a canonical memory reads as after a write and after `resetScreenRegion()`, and the frames of the operations
that write to it. -/

namespace Sys2Proof.Machine

theorem Memory.read_consOp {a : Nat} {rest : Memory} (h : Memory.wfFrom (a + 1) rest = true) (v : Word) (b : Nat) :
    (Memory.cons a v rest).read b = if b = a then v else rest.read b := by
  unfold Memory.cons
  split
  next hv =>
    split
    next hb => rw [hb, hv, Memory.read_below h (Nat.lt_succ_self a)]
    next => rfl
  next => rfl

/-- A cell reads as the last value written to it, and a write leaves every other cell alone. -/
theorem Memory.read_write {lo : Nat} {m : Memory} (hm : Memory.wfFrom lo m = true) (a b : Nat) (v : Word) :
    (m.write a v).read b = if b = a then v else m.read b := by
  induction m generalizing lo with
  | nil => exact Memory.read_consOp rfl v b
  | cons p rest ih =>
    obtain ⟨c, w⟩ := p
    obtain ⟨-, hc, hw, hrest⟩ := Memory.wfFrom_cons.1 hm
    simp only [Memory.write]
    split
    next hac => exact Memory.read_consOp (Memory.wfFrom_cons.2 ⟨hac, hc, hw, hrest⟩) v b
    next =>
      split
      next hac =>
        subst hac
        rw [Memory.read_consOp hrest]
        by_cases hb : b = a <;> simp [Memory.read, hb]
      next hac =>
        simp only [Memory.read, ih hrest]
        by_cases hb : b = c
        · simp [hb, Ne.symm hac]
        · simp [hb]

/-- R146: the cells below `n` are 0 and every other cell is as it was. -/
theorem Memory.read_zeroBelow {m : Memory} (hm : m.wf = true) {n : Nat} (hn : n ≤ 32) (b : Nat) :
    (Memory.zeroBelow n m).read b = if b < n then 0 else m.read b := by
  induction n with
  | zero => rfl
  | succ n ih =>
    rw [Memory.zeroBelow, Memory.read_write (Memory.wf_zeroBelow hm (by omega)), ih (by omega)]
    by_cases hb : b = n
    · simp [hb]
    · have hlt : b < n + 1 ↔ b < n := by omega
      simp only [hb, hlt, if_false]

theorem writeAtCurrent_frame {s : State} (hw : s.ram.wf = true) (v : Word) :
    UnchangedBut [cursorCell s] s (writeAtCurrent v s) := by
  intro l hl
  cases l with
  | ram a =>
    have ha : a ≠ s.ramCursor.toNat := fun h => hl (by simp [cursorCell, h])
    exact (Memory.read_write hw _ a v).trans (if_neg ha)
  | _ => rfl

theorem resetScreenRegion_frame {s : State} (hw : s.ram.wf = true) :
    UnchangedBut ((List.range 16).map .ram) s (resetScreenRegion s) := by
  intro l hl
  cases l with
  | ram a =>
    have ha : ¬ a < 16 := fun h => hl (List.mem_map_of_mem (List.mem_range.2 h))
    rw [Loc.Same, resetScreenRegion_ram, Memory.read_zeroBelow hw (by omega), if_neg ha]
  | aluA k | aluB k | aluAcc k => simp [Loc.Same, State.alu]
  | inputSlot j => simp [Loc.Same, State.inputSlot]
  | _ => simp [Loc.Same]

end Sys2Proof.Machine
end

section
/-! How a step ends: `advance()` (R135) and the overrun (R136). -/

namespace Sys2Proof.Machine

@[simp] theorem advance_alu (s : State) (k : Sel) : (advance s).alu k = s.alu k := rfl

@[simp] theorem advance_inputSlot (s : State) (j : SlotIndex) : (advance s).inputSlot j = s.inputSlot j := rfl

theorem advance_frame (s : State) : UnchangedBut [.pcAddress, .pendingJump] s (advance s) := by
  intro l hl
  cases l with
  | pcAddress | pendingJump => simp at hl
  | _ => rfl

/-- From a step boundary (R29), an arm that leaves the program counter alone ends at the next address, and `advance()`
adds nothing else to what the arm wrote. -/
theorem advance_from_boundary {ws : List Loc} {s u : State} (hs : s.pendingJump = none) (h : UnchangedBut ws s u)
    (hpc : .pcAddress ∉ ws) (hjump : .pendingJump ∉ ws) :
    (advance u).pcAddress = nextSlot s.pcAddress ∧ UnchangedBut (ws ++ [.pcAddress]) s (advance u) := by
  have hu : u.pendingJump = none := (h .pendingJump hjump).trans hs
  have hpc' : u.pcAddress = s.pcAddress := h .pcAddress hpc
  exact ⟨hpc' ▸ advance_to_nextSlot u hu, (h.advance hs).mono (by simp [or_comm])⟩

theorem fetch_eq_none_iff (s : State) : fetch s = none ↔ s.prog.length ≤ s.pcAddress.toNat :=
  List.getElem?_eq_none_iff

theorem step_of_fetch_none {s : State} (hs : s.status = .running) (hf : fetch s = none) :
    step s = .next (halt .haltedOverrun s) := by
  simp only [step, hs, hf]

/-- Settles O13: beyond the program `fetch` finds nothing, and `halt(Overrun)` changes the status alone. -/
theorem overrunHaltsBeforeFetch : Obligations.OverrunHaltsBeforeFetch := by
  intro s hs hlen
  exact ⟨_, step_of_fetch_none hs ((fetch_eq_none_iff s).2 hlen), halt_status .haltedOverrun s,
    halt_frame .haltedOverrun s⟩

/-- What the arm of an instruction that is neither `HLT` nor a branch leaves to `advance()`: the program counter as it
was, and from canonical memory nothing written outside the instruction's row of R154. -/
theorem exec_arm_writes_row {i : Instr} {s t : State} (h : exec i s = .next t) (hh : isHlt i = false)
    (hb : isBranch i = false) :
    ∃ u, t = advance u ∧ u.pcAddress = s.pcAddress ∧ u.pendingJump = s.pendingJump ∧
      (s.ram.wf = true → UnchangedBut (armWrites i s) s u) := by
  cases i with
  | hlt v k => simp [isHlt] at hh
  | bra v k | brm v k | bre v k | brl v k | bri v k => simp [isBranch] at hb
  | nop v k => exact ⟨s, complete_next.1 h, rfl, rfl, fun _ => .refl _ s⟩
  | reserved29 v k | reserved30 v k | reserved31 v k =>
    exact ⟨s, (execReserved_next h).2, rfl, rfl, fun _ => .refl _ s⟩
  | rav v k =>
    obtain ⟨v, rfl, ht⟩ := withOperand_next h
    exact ⟨_, complete_next.1 ht, rfl, rfl, fun _ => setRamCursor_frame _ s⟩
  | raa v k =>
    obtain ⟨k, rfl, ht⟩ := withSel_next h
    exact ⟨_, complete_next.1 ht, rfl, rfl, fun _ => setRamCursor_frame _ s⟩
  | stv v k =>
    obtain ⟨v, rfl, ht⟩ := withOperand_next h
    exact ⟨_, complete_next.1 ht, rfl, rfl, fun hw => writeAtCurrent_frame hw _⟩
  | sta v k =>
    obtain ⟨k, rfl, ht⟩ := withSel_next h
    exact ⟨_, complete_next.1 ht, rfl, rfl, fun hw => writeAtCurrent_frame hw _⟩
  | lva v k =>
    obtain ⟨v, k, rfl, rfl, ht⟩ := withBoth_next h
    exact ⟨_, complete_next.1 ht, rfl, rfl, fun _ => setRegisterA_frame k _ s⟩
  | lvb v k =>
    obtain ⟨v, k, rfl, rfl, ht⟩ := withBoth_next h
    exact ⟨_, complete_next.1 ht, rfl, rfl, fun _ => setRegisterB_frame k _ s⟩
  | lra v k | laa v k =>
    obtain ⟨k, rfl, ht⟩ := withSel_next h
    exact ⟨_, complete_next.1 ht, rfl, rfl, fun _ => setRegisterA_frame k _ s⟩
  | lrb v k | lab v k =>
    obtain ⟨k, rfl, ht⟩ := withSel_next h
    exact ⟨_, complete_next.1 ht, rfl, rfl, fun _ => setRegisterB_frame k _ s⟩
  | add v k | sub v k | and v k | or v k | xor v k =>
    obtain ⟨k, rfl, ht⟩ := compute_next h
    exact ⟨_, ht, rfl, rfl, fun _ => setAccumulator_frame k _ s⟩
  | rnr v k =>
    obtain ⟨v, rfl, ht⟩ := withOperand_next h
    refine ⟨_, complete_next.1 ht, rfl, rfl, fun hw => ?_⟩
    have hwrite := writeAtCurrent_frame (s := dropDraw s) hw (bitwiseAnd (nextDraw s) (maskOf v))
    exact ((dropDraw_frame s).append hwrite).mono (by simp [armWrites, cursorCell])
  | ria v k =>
    obtain ⟨v, rfl, ht⟩ := withOperand_next h
    exact ⟨_, complete_next.1 ht, rfl, rfl, fun _ => setInputCursor_frame _ s⟩
  | riv v k =>
    obtain ⟨v, rfl, ht⟩ := withOperand_next h
    exact ⟨_, complete_next.1 ht, rfl, rfl, fun _ => writeSlotAtCurrent_frame _ s⟩
  | sia v k =>
    obtain ⟨k, rfl, ht⟩ := withSel_next h
    exact ⟨_, complete_next.1 ht, rfl, rfl, fun _ => (clearPending_frame s).append (setRegisterA_frame k _ _)⟩
  | sib v k =>
    obtain ⟨k, rfl, ht⟩ := withSel_next h
    exact ⟨_, complete_next.1 ht, rfl, rfl, fun _ => (clearPending_frame s).append (setRegisterB_frame k _ _)⟩
  | sir v k =>
    refine ⟨_, complete_next.1 h, rfl, rfl, fun hw => ?_⟩
    have hwrite := writeAtCurrent_frame (s := clearPending s) hw (pendingValue s)
    exact ((clearPending_frame s).append hwrite).mono (by simp [armWrites, cursorCell])
  | csm v k =>
    exact ⟨_, complete_next.1 h, resetScreenRegion_pcAddress s, resetScreenRegion_pendingJump s,
      resetScreenRegion_frame⟩

/-- R135 on the state alone: the pending jump, or the next address from 63 to 0, and nothing else. -/
theorem advance_spec (s : State) :
    (∀ t, s.pendingJump = some t → (advance s).pcAddress = t) ∧
    (s.pendingJump = none → (advance s).pcAddress = nextSlot s.pcAddress) ∧
    (s.pendingJump = none → s.pcAddress = .slot 63 → (advance s).pcAddress = .slot 0) ∧
    (advance s).pendingJump = none ∧
    UnchangedBut [.pcAddress, .pendingJump] s (advance s) := by
  refine ⟨fun t => advance_pcAddress_of_some s t, advance_to_nextSlot s, fun h h63 => ?_, rfl, advance_frame s⟩
  rw [advance_to_nextSlot s h, h63]
  rfl

/-- Settles O17: `advance_spec`, and each arm that is not `HLT`'s ends in one `advance()`. -/
theorem advanceTakesTheJumpOrTheNextSlot : Obligations.AdvanceTakesTheJumpOrTheNextSlot := by
  refine ⟨advance_spec, fun i s t h => ⟨fun hh => ?_, fun hh => ?_⟩⟩
  · cases hb : isBranch i with
    | true =>
      obtain ⟨u, ht, hu⟩ := exec_branch_next h hb
      exact ⟨u, ht, fun _ => hu, nofun⟩
    | false =>
      obtain ⟨u, ht, hrow⟩ := exec_arm_writes_row h hh hb
      exact ⟨u, ht, nofun, fun _ => hrow⟩
  · obtain ⟨-, rfl⟩ | ⟨hh', -⟩ := exec_next h
    · exact ⟨halt_pcAddress _ s, halt_pendingJump _ s⟩
    · simp [hh] at hh'

end Sys2Proof.Machine
end

section
/-! The effect of single instructions from a step boundary: the value written, by the read-after-write rule of the
arm's operation, then `advance_from_boundary` on its frame. -/

namespace Sys2Proof.Machine

/-- Settles O25: the cursor takes the residue modulo 2^5. -/
theorem ravAndRaaSetTheCursor : Obligations.RavAndRaaSetTheCursor := by
  intro s x k v j hs
  exact ⟨⟨_, rfl, trunc_natCast_toNat 5 x.toNat,
      advance_from_boundary hs (setRamCursor_frame _ s) (by simp) (by simp)⟩,
    ⟨_, rfl, trunc_natCast_toNat 5 (s.alu k).acc.toNat,
      advance_from_boundary hs (setRamCursor_frame _ s) (by simp) (by simp)⟩⟩

/-- R144: a completed store from a step boundary. -/
theorem writeAtCurrent_completes {s : State} (hw : s.ram.wf = true) (hs : s.pendingJump = none) (x : Word) :
    ∃ t, complete (writeAtCurrent x s) = .next t ∧ t.ram.read s.ramCursor.toNat = x ∧
      t.pcAddress = nextSlot s.pcAddress ∧ UnchangedBut [.ram s.ramCursor.toNat, .pcAddress] s t :=
  ⟨_, rfl, (Memory.read_write hw _ _ x).trans (if_pos rfl),
    advance_from_boundary hs (writeAtCurrent_frame hw x) (by simp [cursorCell]) (by simp [cursorCell])⟩

/-- Settles O26: both are one store at the cursor; cutting an accumulator to 16 bits does not change it. -/
theorem stvAndStaWriteTheCurrentCell : Obligations.StvAndStaWriteTheCurrentCell := by
  intro s x k v j hw hs
  have hacc : trunc 16 ((s.alu k).acc.toNat : Int) = (s.alu k).acc := by
    rw [trunc_toNat_eq_setWidth, BitVec.setWidth_eq]
  have hsta : exec (.sta v (some k)) s = complete (writeAtCurrent (s.alu k).acc s) :=
    congrArg (fun w => complete (writeAtCurrent w s)) hacc
  exact ⟨writeAtCurrent_completes hw hs x, hsta ▸ writeAtCurrent_completes hw hs (s.alu k).acc⟩

/-- Settles O27: the selected unit reads as written. -/
theorem lvaAndLvbLoadTheOperand : Obligations.LvaAndLvbLoadTheOperand := by
  intro s x k hs
  exact ⟨⟨_, rfl, by simp [alu_setRegisterA, literalOf],
      advance_from_boundary hs (setRegisterA_frame k _ s) (by simp) (by simp)⟩,
    ⟨_, rfl, by simp [alu_setRegisterB, literalOf],
      advance_from_boundary hs (setRegisterB_frame k _ s) (by simp) (by simp)⟩⟩

/-- R215: each compute instruction puts its operation's result into the accumulator of the selected unit. -/
theorem compute_completes (f : Alu → Word) (k : Sel) {s : State} (hs : s.pendingJump = none) :
    ∃ t, compute f (some k) s = .next t ∧ (t.alu k).acc = f (s.alu k) ∧
      t.pcAddress = nextSlot s.pcAddress ∧ UnchangedBut [.aluAcc k, .pcAddress] s t :=
  ⟨_, rfl, by simp [alu_setAccumulator],
    advance_from_boundary hs (setAccumulator_frame k _ s) (by simp) (by simp)⟩

/-- Settles O30: `compute_completes` with the sum and the difference as numbers. -/
theorem addAndSubWrapAt65536 : Obligations.AddAndSubWrapAt65536 := by
  intro s v k hs
  obtain ⟨t, hadd, hsum, hend⟩ := compute_completes aluAdd k hs
  obtain ⟨t', hsub, hdiff, hend'⟩ := compute_completes aluSubtract k hs
  exact ⟨⟨t, hadd, hsum ▸ aluAdd_toNat _, hend⟩, ⟨t', hsub, hdiff ▸ aluSubtract_toNat _, hend'⟩⟩

/-- Settles O31: `compute_completes`, bit by bit. -/
theorem bitwiseOpsActBitByBit : Obligations.BitwiseOpsActBitByBit := by
  intro s v k hs
  obtain ⟨t, hand, hacc, hend⟩ := compute_completes aluBitAnd k hs
  obtain ⟨t', hor, hacc', hend'⟩ := compute_completes aluBitOr k hs
  obtain ⟨t'', hxor, hacc'', hend''⟩ := compute_completes aluBitXor k hs
  refine ⟨⟨t, hand, fun n _ => ?_, hend⟩, ⟨t', hor, fun n _ => ?_, hend'⟩, ⟨t'', hxor, fun n _ => ?_, hend''⟩⟩
  · rw [hacc, aluBitAnd, bitwiseAnd, BitVec.getLsbD_and]
  · rw [hacc', aluBitOr, bitwiseOr, BitVec.getLsbD_or]
  · rw [hacc'', aluBitXor, bitwiseXor, BitVec.getLsbD_xor]
    exact (by decide : ∀ x y : Bool, (x ^^ y) = decide (x ≠ y)) _ _

/-- Settles O34: the input cursor takes the residue modulo 2^3, and the slot at it reads as written. -/
theorem riaAndRivSetUpTheSlots : Obligations.RiaAndRivSetUpTheSlots := by
  intro s x k hs
  exact ⟨⟨_, rfl, trunc_natCast_toNat 3 x.toNat,
      advance_from_boundary hs (setInputCursor_frame _ s) (by simp) (by simp)⟩,
    ⟨_, rfl, by simp [inputSlot_writeSlotAtCurrent, literalOf],
      advance_from_boundary hs (writeSlotAtCurrent_frame _ s) (by simp) (by simp)⟩⟩

/-- Settles O38: `Memory.read_zeroBelow` at 16, and the frame of `resetScreenRegion()`. -/
theorem csmClearsTheScreenOnly : Obligations.CsmClearsTheScreenOnly := by
  intro s v k hw hs
  have hread (a : Nat) : (advance (resetScreenRegion s)).ram.read a = if a < 16 then 0 else s.ram.read a := by
    rw [advance_ram, resetScreenRegion_ram, Memory.read_zeroBelow hw (by omega)]
  obtain ⟨hpc, hframe⟩ := advance_from_boundary hs (resetScreenRegion_frame hw) (by simp) (by simp)
  exact ⟨advance (resetScreenRegion s), rfl, fun a ha => (hread a).trans (if_pos ha),
    fun a ha => (hread a).trans (if_neg (by omega)), hpc, hframe.mono (by simp [or_comm])⟩

end Sys2Proof.Machine
end

section
/-! Which instruction can change the run status (R251). -/

namespace Sys2Proof.Machine

theorem eq_hlt_of_isHlt {i : Instr} (h : isHlt i = true) : ∃ v k, i = .hlt v k := by
  cases i with
  | hlt v k => exact ⟨v, k, rfl⟩
  | _ => cases h

theorem exec_keeps_status {i : Instr} {s t : State} (h : exec i s = .next t) (hh : isHlt i = false) :
    t.status = s.status := by
  obtain ⟨hh', -⟩ | ⟨-, u, rfl, hu⟩ := exec_next h
  · simp [hh] at hh'
  · exact (advance_status u).trans hu.status

/-- Settles O39: `HLT` is `halt(HaltedHLT)`, whose frame is the status alone, and any other instruction keeps it. -/
theorem onlyHltHalts : Obligations.OnlyHltHalts := by
  refine ⟨fun s v k => ⟨halt .haltedHlt s, rfl, halt_status _ s, halt_frame _ s⟩, fun i s t h hne => ?_⟩
  cases hh : isHlt i with
  | true => exact eq_hlt_of_isHlt hh
  | false => exact absurd (exec_keeps_status h hh) hne

end Sys2Proof.Machine
end

section
/-! Level W (spec/30_encoding.md R98 to R101): the two directions of the round trip between records and words, in every
valid numbering of the opcodes, and the word as a number. -/

namespace Sys2Proof

theorem opcodeIdIn_instrOfRow (ids : OpcodeIds) (n : OpcodeId) (v : Option Word) (k : Option Sel) :
    opcodeIdIn ids (instrOfRow n v k) = ids[n.toNat]'n.isLt := by
  simp only [opcodeIdIn, rowOf_instrOfRow]

/-- R98: the three fields are the whole word. -/
theorem append_fields (w : InstrWord) : opcField w ++ immField w ++ selField w = w := by
  have hlow : immField w ++ selField w = w.extractLsb' 0 18 :=
    BitVec.extractLsb'_append_extractLsb'_eq_extractLsb' rfl
  have hassoc : opcField w ++ immField w ++ selField w = opcField w ++ (immField w ++ selField w) :=
    BitVec.append_assoc
  rw [hassoc, hlow]
  exact BitVec.extractLsb'_append_extractLsb'

theorem decodeWordIn_encodeIn {ids : OpcodeIds} (h : validOpcodeIds ids = true) (i : Instr) :
    decodeWordIn ids (encodeIn ids i) = filled i := by
  obtain ⟨hopc, himm, hsel⟩ := fields_encodeIn ids i
  rw [decodeWordIn, hopc, himm, hsel, opcodeIdIn, rowOfId_of_valid h, filled]

theorem encodeIn_decodeWordIn {ids : OpcodeIds} (h : validOpcodeIds ids = true) (w : InstrWord) :
    encodeIn ids (decodeWordIn ids w) = w := by
  have hopc : opcodeIdIn ids (decodeWordIn ids w) = opcField w :=
    (opcodeIdIn_instrOfRow ..).trans (getElem_rowOfId h _)
  rw [encodeIn, hopc, decodeWordIn, operand_instrOfRow, aluSelect_instrOfRow]
  exact append_fields w

theorem filled_of_present {i : Instr} (hv : i.operand.isSome = true) (hk : i.aluSelect.isSome = true) :
    filled i = i := by
  obtain ⟨v, hv⟩ := Option.isSome_iff_exists.1 hv
  obtain ⟨k, hk⟩ := Option.isSome_iff_exists.1 hk
  calc filled i = instrOfRow (rowOf i) i.operand i.aluSelect := by simp only [filled, hv, hk, Option.getD_some]
    _ = i := instrOfRow_rowOf i

/-- Settles O55: the two round trips, and the opcode field of an assembled word. -/
theorem anyNumberingRoundTrips : Obligations.AnyNumberingRoundTrips := fun ids h =>
  ⟨fun i => ⟨(fields_encodeIn ids i).1, decodeWordIn_encodeIn h i⟩, encodeIn_decodeWordIn h⟩

/-- Settles O2: the round trip in the default numbering; a record with both fields has nothing to fill. -/
theorem decodeOfEncodeIsTheRecord : Obligations.DecodeOfEncodeIsTheRecord := by
  intro i
  have h : decodeWord (encode i) = filled i := decodeWordIn_encodeIn validOpcodeIds_default i
  exact ⟨h, fun hv hk => h.trans (filled_of_present hv hk)⟩

/-- Settles O3: the round trip in the default numbering. -/
theorem encodeOfDecodeIsTheWord : Obligations.EncodeOfDecodeIsTheWord :=
  encodeIn_decodeWordIn validOpcodeIds_default

theorem toNat_append_eq_add {m n : Nat} (x : BitVec m) (y : BitVec n) :
    (x ++ y).toNat = x.toNat * 2 ^ n + y.toNat := by
  rw [BitVec.toNat_append, ← Nat.shiftLeft_add_eq_or_of_lt y.isLt, Nat.shiftLeft_eq]

/-- Settles O4: each field is appended below the ones before it. -/
theorem assembledWordAsANumber : Obligations.AssembledWordAsANumber := by
  intro i
  rw [encode, encodeIn, toNat_append_eq_add, toNat_append_eq_add, opcodeId]
  ring

/-- Settles O1: each word is decoded by evaluation. -/
theorem wordsOfTheVectorsDecode : Obligations.WordsOfTheVectorsDecode := by
  unfold Obligations.WordsOfTheVectorsDecode
  decide

end Sys2Proof
end

section
/-! Reserved IDs (R102, R243) and the guard of the program store, in every numbering of the opcodes. -/

namespace Sys2Proof

/-- The 29 mnemonics' IDs are the numbering's first 29 entries. -/
theorem mnemonic_has_id_iff (ids : OpcodeIds) (id : OpcodeId) :
    (∃ i : Instr, i.isReserved = false ∧ opcodeIdIn ids i = id) ↔ ids.toList.idxOf id < 29 := by
  constructor
  · rintro ⟨i, hi, rfl⟩
    have hrow : (rowOf i).toNat < 29 := by simpa [isReserved_iff_rowOf] using (Bool.eq_false_iff.1 hi)
    have hlt : (rowOf i).toNat < ids.toList.length := by simp; omega
    have hget : opcodeIdIn ids i = ids.toList[(rowOf i).toNat] := by simp [opcodeIdIn]
    have hmem : ids.toList[(rowOf i).toNat] ∈ ids.toList.take 29 :=
      List.mem_take_iff_getElem.2 ⟨_, by omega, rfl⟩
    rw [hget]
    exact (List.mem_take_iff_idxOf_lt (List.getElem_mem hlt)).1 hmem
  · intro h
    have hrow : (BitVec.ofNat 5 (ids.toList.idxOf id)).toNat = ids.toList.idxOf id := by
      rw [BitVec.toNat_ofNat, Nat.mod_eq_of_lt (by omega)]
    refine ⟨instrOfRow (BitVec.ofNat 5 (ids.toList.idxOf id)) none none, ?_, ?_⟩
    · rw [Bool.eq_false_iff, Ne, isReserved_iff_rowOf, rowOf_instrOfRow, hrow]
      omega
    · rw [opcodeIdIn_instrOfRow]
      simp only [hrow]
      have hlt : ids.toList.idxOf id < ids.toList.length := by simp; omega
      exact (Vector.getElem_toList hlt).symm.trans (List.getElem_idxOf hlt)

theorem isReserved_decodeWordIn (ids : OpcodeIds) (w : InstrWord) :
    (decodeWordIn ids w).isReserved = true ↔ 29 ≤ ids.toList.idxOf (opcField w) := by
  rw [isReserved_iff_rowOf, decodeWordIn, rowOf_instrOfRow, rowOfId_toNat]
  omega

theorem admitted_of_not_reserved {i : Instr} (m : ReservedOpcodeMode) (h : i.isReserved = false) :
    i.admitted m = true := by
  cases m <;> simp [Instr.admitted, h]

theorem decodeProgramWord_of_admitted {ids : OpcodeIds} {m : ReservedOpcodeMode} {w : InstrWord}
    (h : (decodeWordIn ids w).admitted m = true) : decodeProgramWord ids m w = .ok (decodeWordIn ids w) := if_pos h

theorem decodeProgramWord_of_mnemonic {ids : OpcodeIds} {w : InstrWord} (m : ReservedOpcodeMode)
    (h : ids.toList.idxOf (opcField w) < 29) : decodeProgramWord ids m w = .ok (decodeWordIn ids w) := by
  have hres : (decodeWordIn ids w).isReserved = false := by
    rw [Bool.eq_false_iff, Ne, isReserved_decodeWordIn]
    omega
  exact decodeProgramWord_of_admitted (admitted_of_not_reserved m hres)

theorem decodeProgramWord_refuse {ids : OpcodeIds} {w : InstrWord} (h : 29 ≤ ids.toList.idxOf (opcField w)) :
    decodeProgramWord ids .refuse w = .error (.reservedOpcode (opcField w)) :=
  if_neg (by simp [Instr.admitted, (isReserved_decodeWordIn ids w).2 h])

theorem idxOf_default (id : OpcodeId) : Config.defaultOpcodeIds.toList.idxOf id = id.toNat := by
  revert id; decide

/-- Settles O7: an ID is a mnemonic's exactly where it is among the numbering's first 29. -/
theorem reservedWordsAreReported : Obligations.ReservedWordsAreReported := by
  intro ids m w
  refine ⟨?_, fun i hi hid => ?_, ?_, ?_, ?_⟩
  · rintro rfl hnone
    refine decodeProgramWord_refuse (not_lt.1 fun hlt => ?_)
    obtain ⟨i, hi, hid⟩ := (mnemonic_has_id_iff ids (opcField w)).2 hlt
    exact hnone i hi hid
  · exact decodeProgramWord_of_mnemonic m ((mnemonic_has_id_iff ids _).1 ⟨i, hi, hid⟩)
  · rintro rfl
    exact decodeProgramWord_of_admitted rfl
  · rintro rfl rfl h
    exact decodeProgramWord_refuse ((idxOf_default _).symm ▸ h)
  · rintro rfl h
    exact decodeProgramWord_of_mnemonic m ((idxOf_default _).symm ▸ h)

end Sys2Proof
end

section
/-! Which fields an instruction depends on (R104, D24), and what follows where a field that it uses is absent (R152,
R253): one pass over the 32 arms for each of the three facts. -/

namespace Sys2Proof.Machine

theorem wf_iff (i : Instr) :
    i.wf = true ↔
      (i.usesSel = true → i.aluSelect ≠ none) ∧ (i.usesOperand = true → i.operand ≠ none) := by
  simp [Instr.wf, imp_iff_not_or, Option.isSome_iff_ne_none]

/-- R104: the row and the used fields of a record decide what it does. -/
theorem exec_instrOfRow_rowOf {i : Instr} {v : Option Word} {k : Option Sel} (s : State)
    (hv : i.usesOperand = true → i.operand = v) (hk : i.usesSel = true → i.aluSelect = k) :
    exec (instrOfRow (rowOf i) v k) s = exec i s := by
  cases i with
  | nop | sir | csm | hlt | reserved29 | reserved30 | reserved31 => rfl
  | bra v' | bri v' | rav v' | stv v' | rnr v' | ria v' | riv v' =>
    obtain rfl : v' = v := hv rfl
    rfl
  | raa _ k' | sta _ k' | lra _ k' | lrb _ k' | laa _ k' | lab _ k' | add _ k' | sub _ k' | and _ k' | or _ k'
  | xor _ k' | sia _ k' | sib _ k' =>
    obtain rfl : k' = k := hk rfl
    rfl
  | brm v' k' | bre v' k' | brl v' k' | lva v' k' | lvb v' k' =>
    obtain rfl : v' = v := hv rfl
    obtain rfl : k' = k := hk rfl
    rfl

/-- Settles O6: both records are the one row, with fields that agree where the row uses them. -/
theorem unusedFieldsAreIgnored : Obligations.UnusedFieldsAreIgnored := by
  intro i j s hid hv hk
  have hrow : rowOf i = rowOf j := by simpa using hid
  calc exec i s = exec (instrOfRow (rowOf i) j.operand j.aluSelect) s := (exec_instrOfRow_rowOf s hv hk).symm
    _ = exec j s := by rw [hrow, instrOfRow_rowOf]

/-- Settles O5: a filler takes the place of a field only where the opcode does not use it. -/
theorem filledRecordRunsAlike : Obligations.FilledRecordRunsAlike := by
  intro i s hwf
  obtain ⟨hk, hv⟩ := (wf_iff i).1 hwf
  exact exec_instrOfRow_rowOf s (fun h => (Option.getD_of_ne_none (hv h) 0).symm)
    (fun h => (Option.getD_of_ne_none (hk h) 0).symm)

/-! ### What an instruction answers -/

/-- The violation of a record that lacks a field its opcode uses (R253): the selector is looked at first (R260). -/
def violation (i : Instr) : Option Fault :=
  if i.usesSel = true ∧ i.aluSelect = none then some .noAluSelect
  else if i.usesOperand = true ∧ i.operand = none then some .noOperand
  else none

theorem violation_eq_none_iff (i : Instr) : violation i = none ↔ i.wf = true := by
  rw [wf_iff, violation]
  split_ifs <;> simp_all

theorem execReserved_refuse {s : State} (id : OpcodeId) (hm : s.params.reservedOpcodeMode = .refuse) :
    execReserved id s = .refused (.reservedOpcode id) := by simp only [execReserved, hm]

theorem execReserved_nop {s : State} (id : OpcodeId) (hm : s.params.reservedOpcodeMode = .nop) :
    execReserved id s = complete s := by simp only [execReserved, hm]

/-- Everything that an instruction can answer: its violation, or with none a refusal where the mode does not admit the
record, and otherwise a next state. -/
theorem exec_outcome (i : Instr) (s : State) :
    (∃ r, violation i = some r ∧ exec i s = .fault r) ∨
    (violation i = none ∧ i.admitted s.params.reservedOpcodeMode = false ∧ ∃ r, exec i s = .refused r) ∨
    (violation i = none ∧ i.admitted s.params.reservedOpcodeMode = true ∧ ∃ t, exec i s = .next t) := by
  cases i with
  | nop | sir | csm | hlt => exact .inr (.inr ⟨rfl, admitted_of_not_reserved _ rfl, _, rfl⟩)
  | bra v | bri v | rav v | stv v | rnr v | ria v | riv v =>
    cases v with
    | none => exact .inl ⟨.noOperand, rfl, rfl⟩
    | some v => exact .inr (.inr ⟨rfl, admitted_of_not_reserved _ rfl, _, rfl⟩)
  | raa _ k | sta _ k | lra _ k | lrb _ k | laa _ k | lab _ k | add _ k | sub _ k | and _ k | or _ k | xor _ k
  | sia _ k | sib _ k =>
    cases k with
    | none => exact .inl ⟨.noAluSelect, rfl, rfl⟩
    | some k => exact .inr (.inr ⟨rfl, admitted_of_not_reserved _ rfl, _, rfl⟩)
  | brm v k | bre v k | brl v k | lva v k | lvb v k =>
    cases k with
    | none => exact .inl ⟨.noAluSelect, rfl, rfl⟩
    | some k =>
      cases v with
      | none => exact .inl ⟨.noOperand, rfl, rfl⟩
      | some v => exact .inr (.inr ⟨rfl, admitted_of_not_reserved _ rfl, _, rfl⟩)
  | reserved29 | reserved30 | reserved31 =>
    cases hm : s.params.reservedOpcodeMode with
    | refuse => exact .inr (.inl ⟨rfl, rfl, _, execReserved_refuse _ hm⟩)
    | nop => exact .inr (.inr ⟨rfl, rfl, _, execReserved_nop _ hm⟩)

theorem exec_eq_fault_iff (i : Instr) (s : State) (r : Fault) : exec i s = .fault r ↔ violation i = some r := by
  obtain ⟨r', hv, h⟩ | ⟨hv, -, r', h⟩ | ⟨hv, -, t, h⟩ := exec_outcome i s <;> simp [hv, h]

/-- Settles O44: a well-formed record has no violation, and an admitted one is not refused. -/
theorem wellFormedRecordsComplete : Obligations.WellFormedRecordsComplete := by
  intro i s hwf hadm
  have hnone := (violation_eq_none_iff i).2 hwf
  obtain ⟨r, hv, -⟩ | ⟨-, hadm', -⟩ | ⟨-, -, h⟩ := exec_outcome i s
  · simp [hnone] at hv
  · simp [hadm] at hadm'
  · exact h

/-- Settles O42: the two violations, read off `violation`. -/
theorem faultsExactlyOnAnAbsentField : Obligations.FaultsExactlyOnAnAbsentField := by
  intro i s
  rw [exec_eq_fault_iff, exec_eq_fault_iff, violation]
  split_ifs <;> simp_all

/-- Settles O43: a decoded record has both fields (R100), so it is well formed. -/
theorem decodedWordsNeverFault : Obligations.DecodedWordsNeverFault := by
  intro w s f h
  have hwf : (decodeWord w).wf = true := (wf_iff _).2 (by simp [decodeWord_eq])
  rw [exec_eq_fault_iff, (violation_eq_none_iff _).2 hwf] at h
  cases h

end Sys2Proof.Machine
end

section
/-! The step (R155): how each kind of step ends, what the boundary with the host changes, and the run status. -/

namespace Sys2Proof.Machine

theorem step_of_fetch_some {s : State} {i : Instr} (hs : s.status = .running) (hf : fetch s = some i) :
    step s = afterInstr (exec i s) := by
  simp only [step, hs, hf]

theorem step_of_not_running {s : State} (hs : s.status ≠ .running) : step s = .next s := by
  cases h : s.status with
  | running => exact absurd h hs
  | _ => simp only [step, h]

theorem afterInstr_of_running {t : State} (ht : t.status = .running) : afterInstr (.next t) = .next (handoff t) := by
  simp only [afterInstr, ht]

theorem afterInstr_of_not_running {t : State} (ht : t.status ≠ .running) : afterInstr (.next t) = .next t := by
  cases h : t.status with
  | running => exact absurd h ht
  | _ => simp only [afterInstr, h]

/-- A step that runs an instruction which leaves the machine running ends at the boundary. -/
theorem step_of_exec_running {s t : State} {i : Instr} (hs : s.status = .running) (hf : fetch s = some i)
    (ht : exec i s = .next t) (hrun : t.status = .running) : step s = .next (handoff t) := by
  rw [step_of_fetch_some hs hf, ht, afterInstr_of_running hrun]

/-- R157: the step of an `HLT` is `halt(HLT)`. -/
theorem step_of_fetch_hlt {s : State} {v : Option Word} {k : Option Sel} (hs : s.status = .running)
    (hf : fetch s = some (.hlt v k)) : step s = .next (halt .haltedHlt s) := by
  rw [step_of_fetch_some hs hf]
  exact afterInstr_of_not_running (by simp)

/-- Settles O11: `step` is `afterInstr` of the record's outcome. -/
theorem stepRunsTheFetchedRecord : Obligations.StepRunsTheFetchedRecord := by
  intro s i hs hf
  have hstep : step s = afterInstr (exec i s) := step_of_fetch_some hs hf
  refine ⟨fun t ht hrun => ?_, fun t ht hrun => ?_, fun f hfault => ?_, fun r href => ?_⟩
  · rw [hstep, ht, afterInstr_of_running hrun]
  · rw [hstep, ht, afterInstr_of_not_running hrun]
  · rw [hstep, hfault]; rfl
  · rw [hstep, href]; rfl

/-- Settles O14: by the status. -/
theorem onlyARunningMachineSteps : Obligations.OnlyARunningMachineSteps := fun _ => step_of_not_running

/-- Settles O16: neither `halt(HLT)` nor `halt(Overrun)` writes the program counter. -/
theorem haltingStepKeepsTheAddress : Obligations.HaltingStepKeepsTheAddress := fun s hs =>
  ⟨fun _ _ hf => ⟨_, step_of_fetch_hlt hs hf, halt_status _ s, halt_pcAddress _ s, halt_frame _ s⟩,
   fun hlen => ⟨_, step_of_fetch_none hs ((fetch_eq_none_iff s).2 hlen), halt_status _ s, halt_pcAddress _ s⟩⟩

/-! ### The boundary with the host -/

theorem handoff_of_nil {s : State} (h : s.handoffs = []) : handoff s = s := by
  simp only [handoff, h]

theorem handoff_of_cons {s : State} {h : Handoff} {hs : List Handoff} (hh : s.handoffs = h :: hs) :
    handoff s = { s with
      handoffs := hs
      pendingKey := s.pendingKey.or h.key
      status := if h.stop then .stopped else s.status } := by
  obtain ⟨hnil, -⟩ | ⟨h', hs', hcons, heq⟩ := handoff_cases s
  · simp [hh] at hnil
  · obtain ⟨rfl, rfl⟩ := List.cons.inj (hh.symm.trans hcons)
    exact heq

theorem handoff_frame (s : State) : UnchangedBut [.handoffs, .pendingKey, .status] s (handoff s) := by
  obtain ⟨-, heq⟩ | ⟨h, hs, -, heq⟩ := handoff_cases s
  · exact heq.symm ▸ .refl _ s
  · intro l hl
    cases l with
    | handoffs | pendingKey | status => simp at hl
    | _ => rw [heq]; rfl

@[simp] theorem handoff_ram (s : State) : (handoff s).ram = s.ram := by
  obtain ⟨-, heq⟩ | ⟨_, _, -, heq⟩ := handoff_cases s <;> rw [heq]

/-- The host can only stop the machine. -/
theorem handoff_status (s : State) : (handoff s).status = s.status ∨ (handoff s).status = .stopped := by
  obtain ⟨-, heq⟩ | ⟨h, hs, -, heq⟩ := handoff_cases s
  · exact .inl (congrArg State.status heq)
  · cases hstop : h.stop <;> simp [heq, hstop]

/-- Settles O15: `handoff_of_nil` and `handoff_of_cons`, at the end of the step. -/
theorem boundaryTakesKeyThenStop : Obligations.BoundaryTakesKeyThenStop := by
  intro s i t hs hf ht hrun
  have hstep : step s = .next (handoff t) := step_of_exec_running hs hf ht hrun
  refine ⟨fun hnil => hstep.trans (congrArg _ (handoff_of_nil hnil)), fun h hs hcons => ?_⟩
  have heq := handoff_of_cons hcons
  refine ⟨handoff t, hstep, congrArg State.handoffs heq, ?_, ?_, handoff_frame t⟩
  · cases hkey : t.pendingKey <;> simp [heq, hkey]
  · simp [heq, hrun]

/-! ### The run status -/

/-- Every way a step of a running machine can end, by what it fetched (R250). -/
theorem step_status_cases {s t : State} (hs : s.status = .running) (h : step s = .next t) :
    (fetch s = none ∧ t.status = .haltedOverrun) ∨
    (∃ v k, fetch s = some (.hlt v k) ∧ t.status = .haltedHlt) ∨
    ∃ i, fetch s = some i ∧ isHlt i = false ∧ (t.status = .running ∨ t.status = .stopped) := by
  cases hf : fetch s with
  | none =>
    obtain rfl : halt .haltedOverrun s = t := by simpa [step_of_fetch_none hs hf] using h
    exact .inl ⟨rfl, rfl⟩
  | some i =>
    cases hi : isHlt i with
    | true =>
      obtain ⟨v, k, rfl⟩ := eq_hlt_of_isHlt hi
      obtain rfl : halt .haltedHlt s = t := by simpa [step_of_fetch_hlt hs hf] using h
      exact .inr (.inl ⟨v, k, rfl, rfl⟩)
    | false =>
      rw [step_of_fetch_some hs hf] at h
      obtain ⟨u, hu, hend⟩ := afterInstr_next h
      have hrun : u.status = .running := (exec_keeps_status hu hi).trans hs
      obtain ⟨-, rfl⟩ | ⟨hne, -⟩ := hend
      · exact .inr (.inr ⟨i, rfl, hi, hrun ▸ handoff_status u⟩)
      · exact absurd hrun hne

/-- Settles O18: the three endings of `step_status_cases` exclude each other. -/
theorem statusAfterAStep : Obligations.StatusAfterAStep := by
  intro s t hs h
  rw [← fetch_eq_none_iff]
  obtain ⟨hf, ht⟩ | ⟨v, k, hf, ht⟩ | ⟨i, hf, hi, ht⟩ := step_status_cases hs h
  · simp [hf, ht]
  · simp [hf, ht]
  · have hne : ∀ v k, i ≠ .hlt v k := by rintro v k rfl; cases hi
    obtain ht | ht := ht <;> simp [hf, ht, hne]

/-- In the mode `wrap64` the program counter is one of the 64 slots (R41). -/
theorem toNat_lt_of_legal_wrap64 {a : ProgAddr} (h : a.legal .wrap64 = true) : a.toNat < 64 := by
  cases a with
  | slot a => exact a.isLt
  | beyond t => simp [ProgAddr.legal] at h

/-- Settles O19: 64 records leave no slot beyond the program. -/
theorem fullProgramNeverOverruns : Obligations.FullProgramNeverOverruns := by
  intro s t ⟨_, _, _, hlegal⟩ hmode hlen hs h hover
  have hlt := toNat_lt_of_legal_wrap64 (hmode ▸ hlegal)
  have hle := (statusAfterAStep s t hs h).2.1.1 hover
  omega

end Sys2Proof.Machine
end

section
/-! What every step keeps: the invariant of a step boundary (R29, R41) and the validity of the program (R283). -/

namespace Sys2Proof.Machine

theorem halt_inv {st : Status} {s : State} (h : s.Inv) : (halt st s).Inv := h

/-- The end of an arm: no jump is pending, and the address is the next one or a branch's target. -/
theorem advance_inv {s u : State} (h : s.Inv) (hu : ArmKeeps s u) : (advance u).Inv := by
  obtain ⟨hwf, hlen, hjump, -⟩ := h
  refine ⟨hu.memoryForm hwf, by simpa [hu.prog] using hlen, rfl, ?_⟩
  rw [advance_params, hu.params]
  obtain hkeep | ⟨v, hset⟩ := hu.pendingJump
  · rw [advance_to_nextSlot u (hkeep.trans hjump)]
    rfl
  · rw [advance_pcAddress_of_some u _ hset]
    exact legal_branchTarget _ v

theorem exec_keeps_inv {i : Instr} {s t : State} (h : s.Inv) (ht : exec i s = .next t) : t.Inv := by
  obtain ⟨-, rfl⟩ | ⟨-, u, rfl, hu⟩ := exec_next ht
  · exact halt_inv h
  · exact advance_inv h hu

theorem handoff_inv {s : State} (h : s.Inv) : (handoff s).Inv := by
  obtain ⟨-, heq⟩ | ⟨_, _, -, heq⟩ := handoff_cases s <;> rw [heq] <;> exact h

/-- Settles O48: the instruction keeps the invariant, and the boundary writes nothing that it speaks of. -/
theorem stepKeepsTheInvariant : Obligations.StepKeepsTheInvariant := by
  intro s t h ht
  obtain ⟨-, rfl⟩ | ⟨-, -, rfl⟩ | ⟨i, u, -, -, hu, ⟨-, rfl⟩ | ⟨-, rfl⟩⟩ := step_next ht
  · exact h
  · exact halt_inv h
  · exact handoff_inv (exec_keeps_inv h hu)
  · exact exec_keeps_inv h hu

/-- Settles O47: by evaluation. -/
theorem resetMeetsTheInvariant : Obligations.ResetMeetsTheInvariant :=
  ⟨Memory.wf_reset, Nat.zero_le 64, rfl, rfl⟩

theorem mem_prog_of_fetch {s : State} {i : Instr} (h : fetch s = some i) : i ∈ s.prog := List.mem_of_getElem? h

theorem step_answers_next {s : State} (h : validProgram s.params s.prog = true) : ∃ t, step s = .next t := by
  by_cases hs : s.status = .running
  · cases hf : fetch s with
    | none => exact ⟨_, step_of_fetch_none hs hf⟩
    | some i =>
      have hi : i.wf = true ∧ i.admitted s.params.reservedOpcodeMode = true := by
        simp only [validProgram, Bool.and_eq_true, List.all_eq_true] at h
        exact h.2 i (mem_prog_of_fetch hf)
      obtain ⟨u, hu⟩ := wellFormedRecordsComplete i s hi.1 hi.2
      rw [step_of_fetch_some hs hf, hu]
      by_cases hrun : u.status = .running
      · exact ⟨_, afterInstr_of_running hrun⟩
      · exact ⟨_, afterInstr_of_not_running hrun⟩
  · exact ⟨_, step_of_not_running hs⟩

/-- Settles O50: a valid program's records complete, and no step changes the program or the parameters. -/
theorem validProgramsNeverGoWrong : Obligations.ValidProgramsNeverGoWrong := by
  intro s h
  obtain ⟨t, ht⟩ := step_answers_next h
  obtain ⟨hprog, hparams⟩ := step_keeps_program ht
  exact ⟨t, ht, by rw [hprog, hparams, h]⟩

end Sys2Proof.Machine
end

section
/-! Placing a word where the next step fetches it (R161, R283): `withFetchWord` stands for the host's load. -/

namespace Sys2Proof.Machine

theorem decodeTableWord_of_word (w : InstrWord) : decodeTableWord 24 w.toNat = some (decodeWord w) := by
  have hw : w.toNat < 2 ^ 23 := w.isLt
  have hmod : w.toNat % 2 ^ 24 = w.toNat := Nat.mod_eq_of_lt (by omega)
  simp only [decodeTableWord, decode, hmod, hw, if_true, BitVec.ofNat_toNat, BitVec.setWidth_eq]

/-- At a slot, with the machine running, the program store alone changes. -/
theorem withFetchWord_of_running {s : State} {a : ProgIndex} (w : InstrWord) (hs : s.status = .running)
    (ha : s.pcAddress = .slot a) :
    s.withFetchWord 24 w.toNat = { s with prog := placeAt s.prog a.toNat (decodeWord w) } := by
  have htrunc : trunc 6 (s.pcAddress.toNat : Int) = a := by
    rw [ha, ProgAddr.toNat, trunc_toNat_eq_setWidth, BitVec.setWidth_eq]
  simp only [State.withFetchWord, decodeTableWord_of_word, htrunc, ← hs, ← ha]

/-- The records and no-ops below the placed one fill the addresses below it. -/
theorem length_below_placeAt (prog : List Instr) (a : Nat) :
    (prog.take a ++ List.replicate (a - prog.length) (Instr.nop none none)).length = a := by
  simp; omega

theorem placeAt_getElem?_self (prog : List Instr) (a : Nat) (i : Instr) : (placeAt prog a i)[a]? = some i := by
  rw [placeAt, List.getElem?_append_right (by rw [length_below_placeAt]), length_below_placeAt, Nat.sub_self]
  rfl

theorem placeAt_getElem?_of_ne {prog : List Instr} {a b : Nat} (i : Instr) (hne : b ≠ a) (hb : b < prog.length) :
    (placeAt prog a i)[b]? = prog[b]? := by
  obtain hlt | hgt := lt_or_gt_of_ne hne
  · rw [placeAt, List.append_assoc, List.getElem?_append_left (by simp; omega), List.getElem?_take_of_lt hlt]
  · obtain ⟨d, rfl⟩ := Nat.exists_eq_add_of_lt hgt
    rw [placeAt, List.getElem?_append_right (by rw [length_below_placeAt]; omega), length_below_placeAt,
      show a + d + 1 - a = d + 1 by omega, List.getElem?_cons_succ, List.getElem?_drop]
    congr 1
    omega

/-- Settles O12: the placed record is the one that the step fetches. -/
theorem stepRunsThePlacedWord : Obligations.StepRunsThePlacedWord := by
  intro s a w hs ha
  rw [withFetchWord_of_running w hs ha]
  refine ⟨step_of_fetch_some hs ?_, fun l hl => ?_, fun b hne hb => placeAt_getElem?_of_ne _ hne hb⟩
  · have hpc : s.pcAddress.toNat = a.toNat := congrArg ProgAddr.toNat ha
    simp only [fetch, hpc, placeAt_getElem?_self]
  · cases l with
    | prog => simp at hl
    | _ => rfl

end Sys2Proof.Machine
end

section
/-! The branches (spec/41_branch.md R180 to R185): one rule for where a branch goes, taken or not. -/

namespace Sys2Proof.Machine

theorem jump_then_advance_frame {s : State} (hs : s.pendingJump = none) (v : Word) :
    UnchangedBut [.pcAddress] s (advance (jump v s)) := by
  intro l hl
  cases l with
  | pcAddress => simp at hl
  | pendingJump => exact hs.symm
  | _ => rfl

theorem advance_alone_from_boundary {s : State} (hs : s.pendingJump = none) :
    (advance s).pcAddress = nextSlot s.pcAddress ∧ UnchangedBut [.pcAddress] s (advance s) :=
  advance_from_boundary hs (.refl [] s) (by simp) (by simp)

/-- R185: from a step boundary a branch completes at its target where it is taken and at the next address where it is
not, and writes nothing else. -/
theorem branchIf_completes {s : State} {taken : Bool} {P : Prop} [Decidable P] (hP : taken = true ↔ P)
    (hs : s.pendingJump = none) (v : Word) :
    ∃ t, branchIf taken v s = .next t ∧ UnchangedBut [.pcAddress] s t ∧
      if P then JumpedTo s.params.branchTargetMode v t.pcAddress else t.pcAddress = nextSlot s.pcAddress := by
  cases taken with
  | true =>
    exact ⟨_, rfl, jump_then_advance_frame hs v, (if_pos (hP.1 rfl)).mpr (jumpedTo_branchTarget _ v)⟩
  | false =>
    have hnot : ¬ P := fun h => Bool.false_ne_true (hP.2 h)
    obtain ⟨hpc, hframe⟩ := advance_alone_from_boundary hs
    exact ⟨_, rfl, hframe, (if_neg hnot).mpr hpc⟩

/-- Settles O20: `BRA` is taken always. -/
theorem braGoesToItsTarget : Obligations.BraGoesToItsTarget := by
  intro s v k hs
  obtain ⟨t, ht, hframe, hpc⟩ := branchIf_completes (taken := true) (iff_of_true rfl trivial) hs v
  exact ⟨t, ht, (if_pos trivial).mp hpc, hframe⟩

theorem isEqual_iff (u : Alu) : isEqual u = true ↔ u.a = u.b := by simp [isEqual, BitVec.toNat_inj]

theorem isMore_iff (u : Alu) : isMore u = true ↔ u.b.toNat < u.a.toNat := decide_eq_true_iff

theorem isLess_iff (u : Alu) : isLess u = true ↔ u.a.toNat < u.b.toNat := decide_eq_true_iff

/-- Settles O21: the three comparisons as conditions of `branchIf_completes`. -/
theorem compareBranchesTestAAgainstB : Obligations.CompareBranchesTestAAgainstB := fun s v k hs =>
  ⟨branchIf_completes (isMore_iff (s.alu k)) hs v, branchIf_completes (isEqual_iff (s.alu k)) hs v,
    branchIf_completes (isLess_iff (s.alu k)) hs v⟩

/-- Settles O22: the condition is a pending key, and the frame has the key. -/
theorem briTestsThePendingKey : Obligations.BriTestsThePendingKey := by
  intro s v k hs
  have hkey : hasPending s = true ↔ s.pendingKey ≠ none := by simp [hasPending, Option.isSome_iff_ne_none]
  obtain ⟨t, ht, hframe, hpc⟩ := branchIf_completes hkey hs v
  exact ⟨t, ht, hframe, by simpa only [ite_not, ne_eq] using hpc⟩

/-- R140: of the three comparisons exactly one holds. -/
theorem compare_trichotomy (u : Alu) :
    (isMore u = true ∧ isEqual u = false ∧ isLess u = false) ∨
    (isMore u = false ∧ isEqual u = true ∧ isLess u = false) ∨
    (isMore u = false ∧ isEqual u = false ∧ isLess u = true) := by
  simp only [isMore, isEqual, isLess, decide_eq_true_eq, decide_eq_false_iff_not]
  omega

/-- Settles O23: a taken branch is `BRA`, one that is not taken is the no-op. -/
theorem exactlyOneCompareBranchIsTaken : Obligations.ExactlyOneCompareBranchIsTaken := by
  intro s v k
  have go {b c : Bool} (h : b = c) : branchIf b v s = branchIf c v s := congrArg (branchIf · v s) h
  obtain ⟨hm, he, hl⟩ | ⟨hm, he, hl⟩ | ⟨hm, he, hl⟩ := compare_trichotomy (s.alu k)
  · exact .inl ⟨(go hm :), (go he :), (go hl :)⟩
  · exact .inr (.inl ⟨(go hm :), (go he :), (go hl :)⟩)
  · exact .inr (.inr ⟨(go hm :), (go he :), (go hl :)⟩)

theorem branchTarget_wrap64_toNat (v : Word) : (branchTarget .wrap64 v).toNat = v.toNat % 64 :=
  trunc_natCast_toNat 6 v.toNat

theorem branchTarget_overrun_toNat (v : Word) : (branchTarget .overrun v).toNat = v.toNat := by
  by_cases hv : v.toNat < 64
  · rw [branchTarget, if_pos hv]
    exact (trunc_natCast_toNat 6 v.toNat).trans (Nat.mod_eq_of_lt hv)
  · rw [branchTarget, if_neg hv, ProgAddr.toNat]

theorem handoff_pcAddress (s : State) : (handoff s).pcAddress = s.pcAddress := handoff_frame s .pcAddress (by simp)

/-- Settles O24: the next step's length test sees the target. -/
theorem branchBeyondTheProgramOverruns : Obligations.BranchBeyondTheProgramOverruns := by
  intro s t v k hs _ hf ht hrun hwrap hover
  have hstep : step s = .next (handoff (advance (jump v s))) := step_of_exec_running hs hf rfl hs
  obtain rfl : handoff (advance (jump v s)) = t := by simpa [hstep] using ht
  have hpc : (handoff (advance (jump v s))).pcAddress = branchTarget s.params.branchTargetMode v :=
    handoff_pcAddress _
  have hprog : (handoff (advance (jump v s))).prog = s.prog := (handoff_keeps_program _).1
  have hlen : s.prog.length ≤ (branchTarget s.params.branchTargetMode v).toNat := by
    cases hm : s.params.branchTargetMode with
    | wrap64 => exact (branchTarget_wrap64_toNat v).symm ▸ hwrap hm
    | overrun => exact (branchTarget_overrun_toNat v).symm ▸ hover hm
  have hnone := (fetch_eq_none_iff _).2 (hprog.symm ▸ hpc.symm ▸ hlen)
  exact ⟨_, step_of_fetch_none hrun hnone, rfl, hpc.symm ▸ jumpedTo_branchTarget _ v⟩

end Sys2Proof.Machine
end

section
/-! Reads after writes: a memory cell, the register loads, and the no-op and the reserved IDs, which write nothing. -/

namespace Sys2Proof.Machine

/-- Settles O10: `Memory.read_write` on a canonical memory. -/
theorem readAfterWrite : Obligations.ReadAfterWrite := fun _ a b v hm => Memory.read_write hm a b v

/-- R141: a completed load of A from a step boundary. -/
theorem setRegisterA_completes {s : State} (hs : s.pendingJump = none) (k : Sel) (x : Word) :
    ∃ t, complete (setRegisterA k x s) = .next t ∧ (t.alu k).a = x ∧
      t.pcAddress = nextSlot s.pcAddress ∧ UnchangedBut [.aluA k, .pcAddress] s t :=
  ⟨_, rfl, by simp [alu_setRegisterA], advance_from_boundary hs (setRegisterA_frame k x s) (by simp) (by simp)⟩

/-- R141: a completed load of B from a step boundary. -/
theorem setRegisterB_completes {s : State} (hs : s.pendingJump = none) (k : Sel) (x : Word) :
    ∃ t, complete (setRegisterB k x s) = .next t ∧ (t.alu k).b = x ∧
      t.pcAddress = nextSlot s.pcAddress ∧ UnchangedBut [.aluB k, .pcAddress] s t :=
  ⟨_, rfl, by simp [alu_setRegisterB], advance_from_boundary hs (setRegisterB_frame k x s) (by simp) (by simp)⟩

/-- Settles O28: both load the cell at the cursor. -/
theorem lraAndLrbLoadTheCurrentCell : Obligations.LraAndLrbLoadTheCurrentCell := fun s _ k hs =>
  ⟨setRegisterA_completes hs k (readAtCurrent s), setRegisterB_completes hs k (readAtCurrent s)⟩

/-- Settles O29: both load the accumulator of the unit that they write. -/
theorem laaAndLabLoadTheOwnAccumulator : Obligations.LaaAndLabLoadTheOwnAccumulator := fun s _ k hs =>
  ⟨setRegisterA_completes hs k (s.alu k).acc, setRegisterB_completes hs k (s.alu k).acc⟩

/-- Settles O40: the no-op is `advance()`. -/
theorem nopOnlyAdvances : Obligations.NopOnlyAdvances := fun _ _ _ hs => ⟨_, rfl, advance_alone_from_boundary hs⟩

/-- Settles O41: in the mode `nop` a reserved ID is `advance()`, as the no-op is. -/
theorem reservedIdsFollowTheMode : Obligations.ReservedIdsFollowTheMode := by
  intro s v k
  refine ⟨fun hm hs => ?_, fun hm => ?_⟩
  · obtain ⟨hpc, hframe⟩ := advance_alone_from_boundary hs
    exact ⟨_, hpc, hframe, rfl, execReserved_nop _ hm, execReserved_nop _ hm, execReserved_nop _ hm⟩
  · exact ⟨execReserved_refuse _ hm, execReserved_refuse _ hm, execReserved_refuse _ hm⟩

end Sys2Proof.Machine
end

section
/-! Randomness (R220): the draw under its mask. -/

namespace Sys2Proof.Machine

theorem and_and_not_self (x m : Word) : x &&& m &&& ~~~m = 0 := by
  rw [BitVec.and_assoc, BitVec.and_not_self]
  exact BitVec.and_zero

/-- A value with no bit outside the mask is left as it is by the mask. -/
theorem and_eq_self_of_and_not_eq_zero {x m : Word} (h : x &&& ~~~m = 0) : x &&& m = x := by
  ext n hn
  have hbit : (x &&& ~~~m)[n] = (0 : Word)[n] := by rw [h]
  simpa using hbit

/-- What `RNR` leaves: the masked draw in the cell at the cursor. -/
theorem rnr_reads_masked_draw {s : State} (hw : s.ram.wf = true) (m : Word) :
    (advance (writeAtCurrent (bitwiseAnd (nextDraw s) (maskOf m)) (dropDraw s))).ram.read s.ramCursor.toNat =
      nextDraw s &&& m :=
  (Memory.read_write hw _ _ _).trans (if_pos rfl)

theorem rnr_arm_frame {s : State} (hw : s.ram.wf = true) (x : Word) :
    UnchangedBut [.draws, .drawCount, .ram s.ramCursor.toNat] s (writeAtCurrent x (dropDraw s)) :=
  (dropDraw_frame s).append (writeAtCurrent_frame (s := dropDraw s) hw x)

/-- Settles O32: the masked draw, and its special cases of a full and an empty mask. -/
theorem rnrStoresAMaskedDraw : Obligations.RnrStoresAMaskedDraw := by
  intro s m k hw hs
  have hread := rnr_reads_masked_draw hw m
  obtain ⟨hpc, hframe⟩ := advance_from_boundary hs (rnr_arm_frame hw (bitwiseAnd (nextDraw s) (maskOf m)))
    (by simp) (by simp)
  refine ⟨_, rfl, hread, hread ▸ and_and_not_self _ m, ?_, ?_, rfl, rfl, hpc, hframe.mono (by simp)⟩
  · rintro rfl
    exact hread.trans BitVec.and_allOnes
  · rintro rfl
    exact hread.trans BitVec.and_zero

/-- Settles O33: a value inside the mask is its own draw. -/
theorem rnrReachesExactlyTheMaskedValues : Obligations.RnrReachesExactlyTheMaskedValues := by
  intro s m x rest hw
  have hread (r : Word) := rnr_reads_masked_draw (s := { s with draws := r :: rest }) hw m
  constructor
  · rintro ⟨r, t, ht, hx, -⟩
    obtain rfl := complete_next.1 ht
    exact hx ▸ (hread r).symm ▸ and_and_not_self r m
  · intro hx
    exact ⟨x, _, rfl, (hread x).trans (and_eq_self_of_and_not_eq_zero hx), rfl⟩

end Sys2Proof.Machine
end

section
/-! Input (R232 to R235): a pending key is delivered once. -/

namespace Sys2Proof.Machine

theorem pendingValue_of_none {s : State} (h : s.pendingKey = none) : pendingValue s = 0 := by
  simp only [pendingValue, h]

theorem pendingValue_of_some {s : State} {j : SlotIndex} (h : s.pendingKey = some j) :
    pendingValue s = s.inputSlot j := by
  simp only [pendingValue, h]

/-- What the arm of `SIR` and its `advance()` leave. -/
def afterSir (s : State) : State := advance (writeAtCurrent (pendingValue s) (clearPending s))

/-- R234: `SIR` leaves the pending slot's value in the cell at the cursor. -/
theorem afterSir_read {s : State} (hw : s.ram.wf = true) :
    (afterSir s).ram.read s.ramCursor.toNat = pendingValue s := (Memory.read_write hw _ _ _).trans (if_pos rfl)

theorem afterSir_wf {s : State} (hw : s.ram.wf = true) : (afterSir s).ram.wf = true :=
  Memory.wf_write hw s.ramCursor.isLt _

/-- Settles O35: the three are one read of the pending key, with three places for its value. -/
theorem inputReadsConsumeTheKey : Obligations.InputReadsConsumeTheKey := by
  intro s v j k x hw hs hnone hsome
  have hx : pendingValue s = x := by
    cases hkey : s.pendingKey with
    | none => rw [pendingValue_of_none hkey, hnone hkey]
    | some n => rw [pendingValue_of_some hkey, hsome n hkey]
  subst hx
  have hclear := clearPending_frame s
  obtain ⟨hpcA, hframeA⟩ := advance_from_boundary hs
    (hclear.append (setRegisterA_frame k (pendingValue s) _)) (by simp) (by simp)
  obtain ⟨hpcB, hframeB⟩ := advance_from_boundary hs
    (hclear.append (setRegisterB_frame k (pendingValue s) _)) (by simp) (by simp)
  obtain ⟨hpc, hframe⟩ := advance_from_boundary hs
    (hclear.append (writeAtCurrent_frame (s := clearPending s) hw (pendingValue s)))
    (by simp [cursorCell]) (by simp [cursorCell])
  exact ⟨⟨_, rfl, by simp [alu_setRegisterA], rfl, hpcA, hframeA.mono (by simp)⟩,
    ⟨_, rfl, by simp [alu_setRegisterB], rfl, hpcB, hframeB.mono (by simp)⟩,
    ⟨_, rfl, afterSir_read hw, rfl, hpc, hframe.mono (by simp [cursorCell])⟩⟩

/-- A boundary at which the host offers no key leaves the pending key as it is. -/
theorem handoff_pendingKey_of_no_key {s : State}
    (h : s.handoffs = [] ∨ ∃ h hs, s.handoffs = h :: hs ∧ h.key = none) :
    (handoff s).pendingKey = s.pendingKey := by
  obtain hnil | ⟨h, hs, hcons, hkey⟩ := h
  · rw [handoff_of_nil hnil]
  · simp [handoff_of_cons hcons, hkey]

theorem step_sir {s t : State} {v : Option Word} {k : Option Sel} (hs : s.status = .running)
    (hf : fetch s = some (.sir v k)) (h : step s = .next t) : t = handoff (afterSir s) :=
  (Host.Outcome.next.inj ((step_of_exec_running hs hf rfl hs).symm.trans h)).symm

/-- Settles O36: the first step clears the key and the boundary sets none, so the second reads 0. -/
theorem secondReadWithoutAKeyGivesZero : Obligations.SecondReadWithoutAKeyGivesZero := by
  intro s t u v v' k k' hw hs hf ht hrun hnokey hf' hu
  obtain rfl := step_sir hs hf ht
  obtain rfl := step_sir hrun hf' hu
  have hkey : (handoff (afterSir s)).pendingKey = none := handoff_pendingKey_of_no_key (s := afterSir s) hnokey
  have hcursor : (handoff (afterSir s)).ramCursor = s.ramCursor := handoff_frame (afterSir s) .ramCursor (by simp)
  have hwf : (handoff (afterSir s)).ram.wf = true := (handoff_ram _).symm ▸ afterSir_wf hw
  rw [handoff_ram, ← hcursor, afterSir_read hwf, pendingValue_of_none hkey]

theorem branch_keeps_pendingKey {i : Instr} {s t : State} (h : exec i s = .next t) (hb : isBranch i = true) :
    t.pendingKey = s.pendingKey := by
  obtain ⟨u, rfl, rfl | ⟨v, -, rfl⟩⟩ := exec_branch_next h hb <;> rfl

/-- Settles O37: the arms of `SIA`, `SIB` and `SIR` alone call `consumePending()`, and no arm calls
`setPendingFromKey`. -/
theorem noInstructionSetsThePendingKey : Obligations.NoInstructionSetsThePendingKey := by
  intro i s t h
  cases i with
  | sia v k | sib v k =>
    obtain ⟨_, -, ht⟩ := withSel_next h
    obtain rfl := complete_next.1 ht
    exact .inr ⟨rfl, v, k, by simp⟩
  | sir v k =>
    obtain rfl := complete_next.1 h
    exact .inr ⟨rfl, v, k, by simp⟩
  | bra v k | brm v k | bre v k | brl v k | bri v k => exact .inl (branch_keeps_pendingKey h rfl)
  | nop v k =>
    obtain rfl := complete_next.1 h
    exact .inl rfl
  | csm v k =>
    obtain rfl := complete_next.1 h
    exact .inl ((advance_pendingKey _).trans (resetScreenRegion_pendingKey s))
  | hlt v k =>
    obtain rfl := Host.Outcome.next.inj h
    exact .inl rfl
  | reserved29 v k | reserved30 v k | reserved31 v k =>
    obtain ⟨-, rfl⟩ := execReserved_next h
    exact .inl rfl
  | rav v k | stv v k | rnr v k | ria v k | riv v k =>
    obtain ⟨_, -, ht⟩ := withOperand_next h
    obtain rfl := complete_next.1 ht
    exact .inl rfl
  | raa v k | sta v k | lra v k | lrb v k | laa v k | lab v k =>
    obtain ⟨_, -, ht⟩ := withSel_next h
    obtain rfl := complete_next.1 ht
    exact .inl rfl
  | lva v k | lvb v k =>
    obtain ⟨_, _, -, -, ht⟩ := withBoth_next h
    obtain rfl := complete_next.1 ht
    exact .inl rfl
  | add v k | sub v k | and v k | or v k | xor v k =>
    obtain ⟨_, -, rfl⟩ := compute_next h
    exact .inl rfl

end Sys2Proof.Machine
end

section
/-! What an instruction writes (R154): its row, and what `advance()` adds. -/

namespace Sys2Proof.Machine

theorem mayWrite_of_not_hlt {i : Instr} (s : State) (hi : isHlt i = false) :
    mayWrite i s = .pcAddress :: .pendingJump :: armWrites i s := by simp [mayWrite, hi]

/-- An arm's row, then `advance()`. -/
theorem advance_mayWrite {i : Instr} {s u : State} (hi : isHlt i = false) {ws : List Loc} (h : UnchangedBut ws s u)
    (hws : ∀ l ∈ ws, l = .pendingJump ∨ l ∈ armWrites i s) : UnchangedBut (mayWrite i s) s (advance u) := by
  refine (h.append (advance_frame u)).mono fun l hl => ?_
  rw [mayWrite_of_not_hlt s hi]
  obtain hl | hl := List.mem_append.1 hl
  · obtain rfl | hrow := hws l hl <;> simp [*]
  · obtain rfl | rfl : l = .pcAddress ∨ l = .pendingJump := by simpa using hl
    all_goals simp

/-- Settles O45: an `HLT` writes the status, a branch's arm the pending jump, and any other arm its row. -/
theorem instructionsWriteOnlyTheirRow : Obligations.InstructionsWriteOnlyTheirRow := by
  intro i s t hw h
  cases hi : isHlt i with
  | true =>
    obtain ⟨v, k, rfl⟩ := eq_hlt_of_isHlt hi
    obtain rfl := Host.Outcome.next.inj h
    exact halt_frame .haltedHlt s
  | false =>
    cases hb : isBranch i with
    | true =>
      obtain ⟨u, rfl, rfl | ⟨v, -, rfl⟩⟩ := exec_branch_next h hb
      · exact advance_mayWrite hi (.refl [] _) (by simp)
      · exact advance_mayWrite hi (jump_frame v s) (by simp)
    | false =>
      obtain ⟨u, rfl, -, -, hrow⟩ := exec_arm_writes_row h hi hb
      exact advance_mayWrite hi (hrow hw) fun l => .inr

end Sys2Proof.Machine
end

section
/-! A unit that an instruction does not select (R24, R215): writing it before the instruction or after makes no
difference. -/

namespace Sys2Proof.Machine

/-- An outcome with its next state changed. -/
def mapNext (f : State → State) : Result → Result
  | .next t => .next (f t)
  | .fault r => .fault r
  | .refused r => .refused r

theorem withOperand_mapNext {v : Option Word} {g h : Word → Result} (F : State → State)
    (hg : ∀ v, g v = mapNext F (h v)) : withOperand v g = mapNext F (withOperand v h) := by
  cases v with
  | none => rfl
  | some v => exact hg v

theorem withSel_mapNext {k : Option Sel} {g h : Sel → Result} (F : State → State)
    (hg : ∀ k', k = some k' → g k' = mapNext F (h k')) : withSel k g = mapNext F (withSel k h) := by
  cases k with
  | none => rfl
  | some k => exact hg k rfl

theorem withBoth_mapNext {v : Option Word} {k : Option Sel} {g h : Word → Sel → Result} (F : State → State)
    (hg : ∀ v k', k = some k' → g v k' = mapNext F (h v k')) : withBoth v k g = mapNext F (withBoth v k h) :=
  withSel_mapNext F fun k' hk => withOperand_mapNext F fun v => hg v k' hk

theorem complete_setAlu (j : Sel) (u : Alu) (s : State) :
    complete (setAlu j u s) = mapNext (setAlu j u) (complete s) := rfl

theorem branchIf_setAlu (taken : Bool) (v : Word) (j : Sel) (u : Alu) (s : State) :
    branchIf taken v (setAlu j u s) = mapNext (setAlu j u) (branchIf taken v s) := by cases taken <;> rfl

theorem resetScreenRegion_setAlu (j : Sel) (u : Alu) (s : State) :
    resetScreenRegion (setAlu j u s) = setAlu j u (resetScreenRegion s) := by
  simp only [resetScreenRegion, setAlu]

theorem execReserved_setAlu (id : OpcodeId) (j : Sel) (u : Alu) (s : State) :
    execReserved id (setAlu j u s) = mapNext (setAlu j u) (execReserved id s) := by
  cases hm : s.params.reservedOpcodeMode with
  | refuse => rw [execReserved_refuse id hm, execReserved_refuse id (s := setAlu j u s) hm]; rfl
  | nop => rw [execReserved_nop id hm, execReserved_nop id (s := setAlu j u s) hm]; rfl

section
variable {s : State} {j k : Sel} (h : k ≠ j) (u : Alu)
include h

theorem alu_setAlu_of_ne : (setAlu j u s).alu k = s.alu k := by rw [alu_setAlu, if_neg h]

theorem complete_setRegisterA_setAlu (v : Word) :
    complete (setRegisterA k v (setAlu j u s)) = mapNext (setAlu j u) (complete (setRegisterA k v s)) := by
  rw [setRegisterA, alu_setAlu_of_ne h, setAlu_comm s h, complete_setAlu, ← setRegisterA]

theorem complete_setRegisterB_setAlu (v : Word) :
    complete (setRegisterB k v (setAlu j u s)) = mapNext (setAlu j u) (complete (setRegisterB k v s)) := by
  rw [setRegisterB, alu_setAlu_of_ne h, setAlu_comm s h, complete_setAlu, ← setRegisterB]

theorem complete_setAccumulator_setAlu (v : Word) :
    complete (setAccumulator k v (setAlu j u s)) = mapNext (setAlu j u) (complete (setAccumulator k v s)) := by
  rw [setAccumulator, alu_setAlu_of_ne h, setAlu_comm s h, complete_setAlu, ← setAccumulator]

end

/-- No arm reads or writes a unit other than the selected one, so writing such a unit before or after makes no
difference. -/
theorem exec_setAlu_unselected {i : Instr} {j : Sel} (hsel : i.usesSel = true → i.aluSelect ≠ some j) (u : Alu)
    (s : State) : exec i (setAlu j u s) = mapNext (setAlu j u) (exec i s) := by
  have ne {k : Option Sel} (hk : k ≠ some j) {k' : Sel} (h : k = some k') : k' ≠ j := fun e => hk (e ▸ h)
  cases i with
  | nop | sir | hlt => rfl
  | csm v k =>
    rw [exec, exec, execCsm, execCsm, resetScreenRegion_setAlu, complete_setAlu]
  | reserved29 | reserved30 | reserved31 => exact execReserved_setAlu _ j u s
  | bra v | bri v => exact withOperand_mapNext _ fun v => branchIf_setAlu _ v j u s
  | rav v | stv v | rnr v | ria v | riv v => exact withOperand_mapNext _ fun _ => rfl
  | brm v k | bre v k | brl v k =>
    refine withBoth_mapNext _ fun v k h => ?_
    rw [alu_setAlu_of_ne (ne (hsel rfl) h)]
    exact branchIf_setAlu _ v j u s
  | raa v k | sta v k =>
    refine withSel_mapNext _ fun k h => ?_
    rw [alu_setAlu_of_ne (ne (hsel rfl) h)]
    rfl
  | lva v k => exact withBoth_mapNext _ fun v k h => complete_setRegisterA_setAlu (ne (hsel rfl) h) u _
  | lvb v k => exact withBoth_mapNext _ fun v k h => complete_setRegisterB_setAlu (ne (hsel rfl) h) u _
  | lra v k => exact withSel_mapNext _ fun k h => complete_setRegisterA_setAlu (ne (hsel rfl) h) u _
  | lrb v k => exact withSel_mapNext _ fun k h => complete_setRegisterB_setAlu (ne (hsel rfl) h) u _
  | laa v k =>
    refine withSel_mapNext _ fun k h => ?_
    rw [alu_setAlu_of_ne (ne (hsel rfl) h)]
    exact complete_setRegisterA_setAlu (ne (hsel rfl) h) u _
  | lab v k =>
    refine withSel_mapNext _ fun k h => ?_
    rw [alu_setAlu_of_ne (ne (hsel rfl) h)]
    exact complete_setRegisterB_setAlu (ne (hsel rfl) h) u _
  | sia v k =>
    exact withSel_mapNext _ fun k h =>
      complete_setRegisterA_setAlu (s := clearPending s) (ne (hsel rfl) h) u (pendingValue s)
  | sib v k =>
    exact withSel_mapNext _ fun k h =>
      complete_setRegisterB_setAlu (s := clearPending s) (ne (hsel rfl) h) u (pendingValue s)
  | add v k | sub v k | and v k | or v k | xor v k =>
    refine withSel_mapNext _ fun k h => ?_
    rw [alu_setAlu_of_ne (ne (hsel rfl) h)]
    exact complete_setAccumulator_setAlu (ne (hsel rfl) h) u _

/-- Settles O46: `exec_setAlu_unselected`. -/
theorem unselectedUnitsDoNotMatter : Obligations.UnselectedUnitsDoNotMatter := by
  intro i s j u hsel
  rw [exec_setAlu_unselected hsel u s]
  cases exec i s <;> rfl

end Sys2Proof.Machine
end

section
/-! Reset (R40, R280): what the memory that it writes reads as, and the value of every field. -/

namespace Sys2Proof.Machine

/-- A list of words written from an address on reads back, and every other cell is as it was. -/
theorem Memory.read_writeFrom {vs : List Word} {a : Nat} {m : Memory} (hm : m.wf = true) (hlen : a + vs.length ≤ 32)
    (b : Nat) : (Memory.writeFrom vs a m).read b = if a ≤ b then vs[b - a]?.getD (m.read b) else m.read b := by
  induction vs generalizing a m with
  | nil => simp [Memory.writeFrom]
  | cons v vs ih =>
    rw [List.length_cons] at hlen
    rw [Memory.writeFrom, ih (Memory.wf_write hm (by omega) v) (by omega), Memory.read_write hm]
    obtain hlt | rfl | hgt := lt_trichotomy a b
    · obtain ⟨d, rfl⟩ := Nat.exists_eq_add_of_lt hlt
      have hd : a + d + 1 - a = d + 1 := by omega
      have hd' : a + d + 1 - (a + 1) = d := by omega
      simp [hd, hd', hlt.le, hlt.ne', Nat.succ_le_of_lt hlt]
    · simp
    · simp [hgt.ne, not_le.2 hgt, not_le.2 (Nat.lt_succ_of_lt hgt)]

theorem resetWith_ram_read (rv : ResetValues) (s : State) (a : Fin 32) :
    (resetWith rv s).ram.read a.val = rv.ram[a.val] := by
  have h := Memory.read_writeFrom (m := []) (vs := rv.ram.toList) (a := 0) rfl (by simp) a.val
  exact h.trans (by simp)

/-- Settles O52: every field but the memory is read off `resetWith`. -/
theorem resetKeepsTheProgramAndStartsAtZero : Obligations.ResetKeepsTheProgramAndStartsAtZero := fun rv s hlen =>
  ⟨⟨Memory.wf_resetWith rv s, hlen, rfl, rfl⟩, rfl, rfl, rfl, rfl, rfl, rfl, rfl, rfl, rfl, resetWith_ram_read rv s,
    fun _ => rfl, fun _ => rfl⟩

/-- Settles O51: each field is read off `State.reset`. -/
theorem resetState : Obligations.ResetState :=
  ⟨rfl, rfl, rfl, fun _ => rfl, fun k => by simp [State.alu, State.reset, Config.aluReset],
    fun j => by simp [State.inputSlot, State.reset, Config.inputPreset], rfl, rfl, rfl, rfl, rfl, rfl, rfl, rfl⟩

end Sys2Proof.Machine
end

section
/-! Load of words (R283, R243): the guard lets the program through or reports a word. -/

namespace Sys2Proof.Machine

theorem decodeProgramWord_eq_ok_iff {ids : OpcodeIds} {m : ReservedOpcodeMode} {w : InstrWord} {i : Instr} :
    decodeProgramWord ids m w = .ok i ↔ (decodeWordIn ids w).admitted m = true ∧ decodeWordIn ids w = i := by
  rw [decodeProgramWord]
  split <;> simp [*]

theorem decodeProgram_cons_eq_ok_iff {ids : OpcodeIds} {m : ReservedOpcodeMode} {a : Nat} {w : InstrWord}
    {ws : List InstrWord} {prog : List Instr} :
    decodeProgram ids m a (w :: ws) = .ok prog ↔
      ∃ i is, decodeProgramWord ids m w = .ok i ∧ decodeProgram ids m (a + 1) ws = .ok is ∧ i :: is = prog := by
  rw [decodeProgram]
  cases decodeProgramWord ids m w with
  | error e => simp
  | ok i => cases decodeProgram ids m (a + 1) ws <;> simp

theorem decodeProgram_eq_ok_iff {ids : OpcodeIds} {m : ReservedOpcodeMode} {a : Nat} {ws : List InstrWord}
    {prog : List Instr} :
    decodeProgram ids m a ws = .ok prog ↔
      (∀ w ∈ ws, (decodeWordIn ids w).admitted m = true) ∧ ws.map (decodeWordIn ids) = prog := by
  induction ws generalizing a prog with
  | nil => simp [decodeProgram]
  | cons w ws ih =>
    simp only [decodeProgram_cons_eq_ok_iff, decodeProgramWord_eq_ok_iff, ih, List.forall_mem_cons, List.map_cons]
    constructor
    · rintro ⟨_, _, ⟨hw, rfl⟩, ⟨hws, rfl⟩, rfl⟩
      exact ⟨⟨hw, hws⟩, rfl⟩
    · rintro ⟨⟨hw, hws⟩, rfl⟩
      exact ⟨_, _, ⟨hw, rfl⟩, ⟨hws, rfl⟩, rfl⟩

theorem loadRecords_eq_ok_iff {prog : List Instr} {s t : State} :
    loadRecords prog s = .ok t ↔ prog.length ≤ 64 ∧ { s with prog := prog } = t := by
  rw [loadRecords]
  split <;> simp [*]

theorem loadWords_eq_ok_iff {ids : OpcodeIds} {ws : List InstrWord} {s t : State} :
    loadWords ids ws s = .ok t ↔
      (∀ w ∈ ws, (decodeWordIn ids w).admitted s.params.reservedOpcodeMode = true) ∧ ws.length ≤ 64 ∧
        { s with prog := ws.map (decodeWordIn ids) } = t := by
  rw [loadWords]
  cases h : decodeProgram ids s.params.reservedOpcodeMode 0 ws with
  | error e =>
    have hbad : ¬ ∀ w ∈ ws, (decodeWordIn ids w).admitted s.params.reservedOpcodeMode = true := fun hadm => by
      simp [decodeProgram_eq_ok_iff.2 ⟨hadm, rfl⟩] at h
    simp [hbad]
  | ok prog =>
    obtain ⟨hadm, rfl⟩ := decodeProgram_eq_ok_iff.1 h
    rw [and_iff_right hadm]
    simp [loadRecords_eq_ok_iff]

/-- Settles O53: `loadWords_eq_ok_iff`. -/
theorem loadPlacesTheDecodedWords : Obligations.LoadPlacesTheDecodedWords := by
  intro ids ws s
  refine ⟨fun t ht => ?_, fun hlen hadm => ⟨_, loadWords_eq_ok_iff.2 ⟨hadm, hlen, rfl⟩⟩⟩
  obtain ⟨hadm, hlen, rfl⟩ := loadWords_eq_ok_iff.1 ht
  refine ⟨rfl, by simpa using hlen, by simpa using hadm, fun l hl => ?_⟩
  cases l with
  | prog => simp at hl
  | _ => rfl

end Sys2Proof.Machine
end

section
/-! Program text (R106, R108): one record for each line. -/

namespace Sys2Proof.Machine

theorem recordsOfLines_cons_eq_ok_iff {n : Nat} {l : List Char} {ls : List (List Char)} {prog : List Instr} :
    recordsOfLines n (l :: ls) = .ok prog ↔
      ∃ i is, recordOfLine n l = .ok i ∧ recordsOfLines (n + 1) ls = .ok is ∧ i :: is = prog := by
  rw [recordsOfLines]
  cases recordOfLine n l with
  | error e => simp
  | ok i => cases recordsOfLines (n + 1) ls <;> simp

/-- An accepted text: line by line, the record at each address is that of the line with its number. -/
theorem recordsOfLines_records {n : Nat} {ls : List (List Char)} {prog : List Instr}
    (h : recordsOfLines n ls = .ok prog) :
    prog.length = ls.length ∧ ∀ m l, ls[m]? = some l → ∃ i, prog[m]? = some i ∧ recordOfLine (n + m) l = .ok i := by
  induction ls generalizing n prog with
  | nil =>
    obtain rfl : [] = prog := Except.ok.inj h
    simp
  | cons l ls ih =>
    obtain ⟨i, is, hi, his, rfl⟩ := recordsOfLines_cons_eq_ok_iff.1 h
    obtain ⟨hlen, hrec⟩ := ih his
    refine ⟨congrArg Nat.succ hlen, fun m l' hl' => ?_⟩
    cases m with
    | zero =>
      obtain rfl : l = l' := Option.some.inj hl'
      exact ⟨i, rfl, hi⟩
    | succ m =>
      exact Nat.succ_add_eq_add_succ n m ▸ hrec m l' hl'

/-- Lines that all give a record are accepted. -/
theorem recordsOfLines_accepts {n : Nat} {ls : List (List Char)}
    (h : ∀ m l, ls[m]? = some l → ∃ i, recordOfLine (n + m) l = .ok i) : ∃ prog, recordsOfLines n ls = .ok prog := by
  induction ls generalizing n with
  | nil => exact ⟨[], rfl⟩
  | cons l ls ih =>
    obtain ⟨i, hi⟩ := h 0 l rfl
    obtain ⟨is, his⟩ := ih (n := n + 1) fun m l' hl' => Nat.succ_add_eq_add_succ n m ▸ h (m + 1) l' hl'
    exact ⟨i :: is, recordsOfLines_cons_eq_ok_iff.2 ⟨i, is, hi, his, rfl⟩⟩

theorem programOfText_eq_ok_iff {ls : List (List Char)} {prog : List Instr} :
    programOfText ls = .ok prog ↔ ls.length ≤ 64 ∧ recordsOfLines 0 ls = .ok prog := by
  rw [programOfText]
  split <;> simp [*]

/-- Settles O54: the lines are counted, then read. -/
theorem programTextGivesOneRecordPerLine : Obligations.ProgramTextGivesOneRecordPerLine := by
  intro ls
  have hrecords {prog : List Instr} (h : programOfText ls = .ok prog) :
      prog.length = ls.length ∧ prog.length ≤ 64 ∧
        ∀ n l, ls[n]? = some l → ∃ i, prog[n]? = some i ∧ recordOfLine n l = .ok i := by
    obtain ⟨hmax, h⟩ := programOfText_eq_ok_iff.1 h
    obtain ⟨hlen, hrec⟩ := recordsOfLines_records h
    exact ⟨hlen, hlen ▸ hmax, by simpa using hrec⟩
  refine ⟨fun prog => hrecords, fun hmax hgood => ?_, fun hlong => if_neg (by omega), fun n l e hl he prog h => ?_⟩
  · obtain ⟨prog, h⟩ := recordsOfLines_accepts (n := 0) (ls := ls) (by simpa using hgood)
    exact ⟨prog, programOfText_eq_ok_iff.2 ⟨hmax, h⟩⟩
  · obtain ⟨i, -, hi⟩ := (hrecords h).2.2 n l hl
    simp [he] at hi

end Sys2Proof.Machine
end

section
/-! The operand token (R91, R107): decimal digits against the library's reading of them. -/

namespace Sys2Proof.Machine

theorem digitOfChar_eq (c : Char) : digitOfChar c = if c.isDigit = true then some (c.toNat - '0'.toNat) else none := by
  have hdigit : ('0' ≤ c ∧ c ≤ '9') ↔ c.isDigit = true := by simp [Char.isDigit, Char.le_def]
  simp only [digitOfChar, hdigit]

/-- Decimal digits are read as the library reads them, and a text with any other character is no number. -/
theorem decimalFrom_eq (acc : Nat) (cs : List Char) :
    decimalFrom acc cs = if ∀ c ∈ cs, c.isDigit = true then some (Nat.ofDigitChars 10 cs acc) else none := by
  induction cs generalizing acc with
  | nil => simp [decimalFrom]
  | cons c cs ih =>
    rw [decimalFrom, digitOfChar_eq]
    by_cases hc : c.isDigit = true
    · simp [hc, ih, Nat.ofDigitChars_cons]
    · simp [hc]

theorem operandOfText_eq {tok : List Char} (hne : tok ≠ []) (hdot : tok ≠ ['.']) :
    operandOfText tok = (decimalFrom 0 tok).map (fun n : Nat => some (trunc 16 n)) := by
  obtain _ | ⟨c, cs⟩ := tok
  · exact absurd rfl hne
  · rw [operandOfText]
    · cases decimalFrom 0 (c :: cs) <;> rfl
    · rintro rfl rfl
      exact hdot rfl

theorem ofDigitChars_zeros_append (z : Nat) (cs : List Char) :
    Nat.ofDigitChars 10 (List.replicate z '0' ++ cs) 0 = Nat.ofDigitChars 10 cs 0 := by
  induction z with
  | zero => rfl
  | succ z ih => simpa [List.replicate_succ, Nat.ofDigitChars_cons] using ih

/-- Settles O56: `decimalFrom_eq`; the digits that the library writes for a number read back as that number, leading
zeros add nothing, and any other character rejects the token. -/
theorem operandTokenIsUnsignedDecimal : Obligations.OperandTokenIsUnsignedDecimal := by
  refine ⟨rfl, rfl, fun n z => ?_, fun tok c hc hdigit hdot => ?_⟩
  · have hdigits : ∀ c ∈ List.replicate z '0' ++ Nat.toDigits 10 n, c.isDigit = true := by
      intro c hc
      obtain hc | hc := List.mem_append.1 hc
      · rw [List.eq_of_mem_replicate hc]; rfl
      · exact Nat.isDigit_of_mem_toDigits (by omega) (by omega) hc
    have hdot : List.replicate z '0' ++ Nat.toDigits 10 n ≠ ['.'] := by
      intro h
      exact absurd (hdigits '.' (by simp [h])) (by decide)
    rw [operandOfText_eq (by simp) hdot, decimalFrom_eq, if_pos hdigits, ofDigitChars_zeros_append,
      Nat.ofDigitChars_ten_toDigits, Option.map_some, trunc_natCast]
  · rw [operandOfText_eq (List.ne_nil_of_mem hc) hdot, decimalFrom_eq, if_neg]
    · rfl
    · intro h
      simp [h c hc] at hdigit

end Sys2Proof.Machine
end
